-- ==== Sys2Proof/Word.lean ====
section
/-! DEFINITION. The word types of the core: what the spec reads, writes and encodes as bits. -/

namespace Sys2Proof

/-- A register, constant or bus value: 32 bits, read as a signed `int32` (00_scope R6 WORD_BITS). -/
abbrev Word := BitVec 32

/-- An `int64`: the widened operand A and the accumulator's full views (00_scope R7). -/
abbrev DWord := BitVec 64

/-- A register-bus address as an instruction holds it: 16 bits (00_scope R6 ADDR_BITS). -/
abbrev Addr := BitVec 16

/-- An instruction word `W[71:0]` (30_encoding R100). -/
abbrev InstrWord := BitVec 72

/-- One byte of a word stored as a file (30_encoding R110). -/
abbrev Byte := BitVec 8

end Sys2Proof
end

