-- ==== Sys2Proof/Config.lean ====
section
/-! DEFINITION. What the spec leaves to the implementation or the environment (00_scope R6): each OPEN
parameter is a constant with no body, so that a proof holds for every value of it. The two enumerations and
the event record are the vocabulary those parameters speak. -/

namespace Sys2Proof

/-- The collaborators' banks that the core's accesses reach (00_scope R5, 20_memory R59 and R64). -/
inductive Port where
  | fxIn    -- the FX bus's input bank
  | extIn   -- the external bus's input bank
  | extOut  -- the external bus's output bank
  | fx2     -- the FX bus's output bank, "FX2"
  | xtram   -- the external transfer-RAM store
  deriving DecidableEq, Repr

/-- One access to a collaborator's bank: a read with what it answered, or a write (60_exceptions R231).
The index is the one the bank is given: 0..15 in an I/O region, the effective address for XTRAM. -/
inductive Event where
  | read (port : Port) (index : Int) (answer : Word)
  | write (port : Port) (index : Int) (value : Word)
  deriving DecidableEq, Repr

/-- The two noise registers (10_state R32). -/
inductive NoiseReg where
  | n0
  | n1
  deriving DecidableEq, Repr

/-- ITRAM_SIZE, words in the internal transfer-RAM store: OPEN (00_scope R6, 92 D31). Log 7. -/
opaque Config.itramSize : Nat

/-- XTRAM_SIZE, words in the environment's external store: OPEN (00_scope R6, 92 D30). Log 7. -/
opaque Config.xtramSize : Nat

/-- NOISE: the value drawn at a tick index for a register; any int32 (60_exceptions R230, 92 D12).
Index 0 is the draw at construction. Log 4. -/
opaque Config.noise (tickIndex : Nat) (reg : NoiseReg) : Word

/-- What a collaborator answers to a read of `index` in `port`, given the tick index and every access made
before, newest first: any int32 (60_exceptions R231, 93 K14). Log 5. -/
opaque Config.answer (tickIndex : Nat) (history : List Event) (port : Port) (index : Int) : Word

/-- LOG_FN, a total function of its three arguments alone (43_log_exp R180, R182). Log 9. -/
opaque Config.logFn (a x y : Word) : Word

/-- EXP_FN away from the one point where 43_log_exp R182's round trip fixes it. Log 9. -/
opaque Config.expBase (c x y : Word) : Word

/-- Which positive value R182's round trip reproduces, as a number that `Machine.roundTripValue` brings into
1..2^31-1. The source names no value. Log 9. -/
opaque Config.roundTripSeed : Nat

/-- The maximum-exponent operand at which R182's round trip holds. Log 9. -/
opaque Config.roundTripX : Word

/-- The sign-mode operand at which R182's round trip holds. Log 9. -/
opaque Config.roundTripY : Word

end Sys2Proof
end

