-- ==== Sys2Proof/Syntax.lean ====
section
/-! DEFINITION. The instruction set: one constructor for each row of spec/opcode_table.json
(30_encoding R106, R108), and the operands every one of them carries (30_encoding R101 to R105). -/

namespace Sys2Proof

/-- Field A, decoded once into a tagged operand (30_encoding R103): the accumulator, or a bus address. -/
inductive OperandA where
  | acc
  | mem (addr : Addr)
  deriving DecidableEq, Repr

/-- The four operand fields: result, operand one, operand two, operand three (30_encoding R101). R, X and Y
are bus addresses in every instruction (30_encoding R104). -/
structure Fields where
  r : Addr
  a : OperandA
  x : Addr
  y : Addr
  deriving DecidableEq, Repr

/-- The instructions. The sixteen opcodes of 30_encoding R106 in their order, then the unassigned opcode bytes
0x10..0xFF, one constructor for each high nibble as the opcode table lists them; `low` is the byte's low
nibble, which the no-op ignores (44_interp_skip R202). -/
inductive Instr where
  | macs (r : Addr) (a : OperandA) (x y : Addr)
  | macsn (r : Addr) (a : OperandA) (x y : Addr)
  | macw (r : Addr) (a : OperandA) (x y : Addr)
  | macwn (r : Addr) (a : OperandA) (x y : Addr)
  | macints (r : Addr) (a : OperandA) (x y : Addr)
  | macintw (r : Addr) (a : OperandA) (x y : Addr)
  | acc3 (r : Addr) (a : OperandA) (x y : Addr)
  | macmv (r : Addr) (a : OperandA) (x y : Addr)
  | andxor (r : Addr) (a : OperandA) (x y : Addr)
  | testneg (r : Addr) (a : OperandA) (x y : Addr)
  | limit (r : Addr) (a : OperandA) (x y : Addr)
  | limitl (r : Addr) (a : OperandA) (x y : Addr)
  | log (r : Addr) (a : OperandA) (x y : Addr)
  | exp (r : Addr) (a : OperandA) (x y : Addr)
  | interp (r : Addr) (a : OperandA) (x y : Addr)
  | skip (r : Addr) (a : OperandA) (x y : Addr)
  | unassigned10 (low : BitVec 4) (r : Addr) (a : OperandA) (x y : Addr)
  | unassigned20 (low : BitVec 4) (r : Addr) (a : OperandA) (x y : Addr)
  | unassigned30 (low : BitVec 4) (r : Addr) (a : OperandA) (x y : Addr)
  | unassigned40 (low : BitVec 4) (r : Addr) (a : OperandA) (x y : Addr)
  | unassigned50 (low : BitVec 4) (r : Addr) (a : OperandA) (x y : Addr)
  | unassigned60 (low : BitVec 4) (r : Addr) (a : OperandA) (x y : Addr)
  | unassigned70 (low : BitVec 4) (r : Addr) (a : OperandA) (x y : Addr)
  | unassigned80 (low : BitVec 4) (r : Addr) (a : OperandA) (x y : Addr)
  | unassigned90 (low : BitVec 4) (r : Addr) (a : OperandA) (x y : Addr)
  | unassignedA0 (low : BitVec 4) (r : Addr) (a : OperandA) (x y : Addr)
  | unassignedB0 (low : BitVec 4) (r : Addr) (a : OperandA) (x y : Addr)
  | unassignedC0 (low : BitVec 4) (r : Addr) (a : OperandA) (x y : Addr)
  | unassignedD0 (low : BitVec 4) (r : Addr) (a : OperandA) (x y : Addr)
  | unassignedE0 (low : BitVec 4) (r : Addr) (a : OperandA) (x y : Addr)
  | unassignedF0 (low : BitVec 4) (r : Addr) (a : OperandA) (x y : Addr)
  deriving DecidableEq, Repr

/-- The operand fields of an instruction: all four are always present (30_encoding R111). -/
def Instr.fields : Instr → Fields
  | .macs r a x y => ⟨r, a, x, y⟩
  | .macsn r a x y => ⟨r, a, x, y⟩
  | .macw r a x y => ⟨r, a, x, y⟩
  | .macwn r a x y => ⟨r, a, x, y⟩
  | .macints r a x y => ⟨r, a, x, y⟩
  | .macintw r a x y => ⟨r, a, x, y⟩
  | .acc3 r a x y => ⟨r, a, x, y⟩
  | .macmv r a x y => ⟨r, a, x, y⟩
  | .andxor r a x y => ⟨r, a, x, y⟩
  | .testneg r a x y => ⟨r, a, x, y⟩
  | .limit r a x y => ⟨r, a, x, y⟩
  | .limitl r a x y => ⟨r, a, x, y⟩
  | .log r a x y => ⟨r, a, x, y⟩
  | .exp r a x y => ⟨r, a, x, y⟩
  | .interp r a x y => ⟨r, a, x, y⟩
  | .skip r a x y => ⟨r, a, x, y⟩
  | .unassigned10 _ r a x y => ⟨r, a, x, y⟩
  | .unassigned20 _ r a x y => ⟨r, a, x, y⟩
  | .unassigned30 _ r a x y => ⟨r, a, x, y⟩
  | .unassigned40 _ r a x y => ⟨r, a, x, y⟩
  | .unassigned50 _ r a x y => ⟨r, a, x, y⟩
  | .unassigned60 _ r a x y => ⟨r, a, x, y⟩
  | .unassigned70 _ r a x y => ⟨r, a, x, y⟩
  | .unassigned80 _ r a x y => ⟨r, a, x, y⟩
  | .unassigned90 _ r a x y => ⟨r, a, x, y⟩
  | .unassignedA0 _ r a x y => ⟨r, a, x, y⟩
  | .unassignedB0 _ r a x y => ⟨r, a, x, y⟩
  | .unassignedC0 _ r a x y => ⟨r, a, x, y⟩
  | .unassignedD0 _ r a x y => ⟨r, a, x, y⟩
  | .unassignedE0 _ r a x y => ⟨r, a, x, y⟩
  | .unassignedF0 _ r a x y => ⟨r, a, x, y⟩

end Sys2Proof
end

