-- ==== Sys2Proof/WellFormed.lean ====
section
/-! DEFINITION. Which terms of `Instr` some instruction word encodes. Only field A can go wrong: its value
0xFFFF means the accumulator and no bus address (30_encoding R103). Every other operand value is legal
(30_encoding R108). -/

namespace Sys2Proof

/-- A memory operand A is any address but 0xFFFF, which the encoding gives to the accumulator (30_encoding R103). -/
def OperandA.wellFormed : OperandA → Bool
  | .acc => true
  | .mem addr => addr != 0xFFFF#16

/-- An instruction some word encodes. -/
def Instr.wellFormed (i : Instr) : Bool := i.fields.a.wellFormed

end Sys2Proof
end

