-- ==== Sys2Proof/Decode.lean ====
section
/-! DEFINITION. From instruction words to instructions and back (30_encoding R100 to R110), written from the
encoding tables of the spec. The decoder is total on all 2^72 words (30_encoding R109); over bytes it refuses,
by name, a list too short to hold one word. -/

namespace Sys2Proof

/-- The bit fields of an instruction word (30_encoding R101). -/
def opbField (w : InstrWord) : Byte := w.extractLsb' 64 8
def rField (w : InstrWord) : Addr := w.extractLsb' 48 16
def aField (w : InstrWord) : Addr := w.extractLsb' 32 16
def xField (w : InstrWord) : Addr := w.extractLsb' 16 16
def yField (w : InstrWord) : Addr := w.extractLsb' 0 16

/-- Field A decoded into its tagged operand (30_encoding R103, `decodeA`). -/
def decodeA (f : Addr) : OperandA := if f = 0xFFFF#16 then .acc else .mem f

/-- Opcode `op` of the sixteen (30_encoding R106), by the number of its low nibble. -/
def decodeAssigned (op : Nat) (r : Addr) (a : OperandA) (x y : Addr) : Instr :=
  match op with
  | 0 => .macs r a x y
  | 1 => .macsn r a x y
  | 2 => .macw r a x y
  | 3 => .macwn r a x y
  | 4 => .macints r a x y
  | 5 => .macintw r a x y
  | 6 => .acc3 r a x y
  | 7 => .macmv r a x y
  | 8 => .andxor r a x y
  | 9 => .testneg r a x y
  | 10 => .limit r a x y
  | 11 => .limitl r a x y
  | 12 => .log r a x y
  | 13 => .exp r a x y
  | 14 => .interp r a x y
  -- the one value left, 15: `op` is the number of a nibble
  | _ => .skip r a x y

/-- An opcode byte and its operands (30_encoding R102): high nibble 0 is an opcode of R106, any other is
unassigned. -/
def decodeOpcode (opb : Byte) (r : Addr) (a : OperandA) (x y : Addr) : Instr :=
  match opb.toNat / 16 with
  | 0 => decodeAssigned (opb.toNat % 16) r a x y
  | 1 => .unassigned10 (opb.extractLsb' 0 4) r a x y
  | 2 => .unassigned20 (opb.extractLsb' 0 4) r a x y
  | 3 => .unassigned30 (opb.extractLsb' 0 4) r a x y
  | 4 => .unassigned40 (opb.extractLsb' 0 4) r a x y
  | 5 => .unassigned50 (opb.extractLsb' 0 4) r a x y
  | 6 => .unassigned60 (opb.extractLsb' 0 4) r a x y
  | 7 => .unassigned70 (opb.extractLsb' 0 4) r a x y
  | 8 => .unassigned80 (opb.extractLsb' 0 4) r a x y
  | 9 => .unassigned90 (opb.extractLsb' 0 4) r a x y
  | 10 => .unassignedA0 (opb.extractLsb' 0 4) r a x y
  | 11 => .unassignedB0 (opb.extractLsb' 0 4) r a x y
  | 12 => .unassignedC0 (opb.extractLsb' 0 4) r a x y
  | 13 => .unassignedD0 (opb.extractLsb' 0 4) r a x y
  | 14 => .unassignedE0 (opb.extractLsb' 0 4) r a x y
  -- the one value left, 15: a byte's high nibble
  | _ => .unassignedF0 (opb.extractLsb' 0 4) r a x y

/-- The decoder on instruction words (30_encoding R109: every word yields one opcode and four fields). -/
def decode (w : InstrWord) : Instr :=
  decodeOpcode (opbField w) (rField w) (decodeA (aField w)) (xField w) (yField w)

/-- Why the byte decoder refuses: fewer than the nine bytes of a word stand there (30_encoding R110). -/
inductive DecodeError where
  | truncated (found : Nat)
  deriving DecidableEq, Repr

/-- The decoder on bytes as files and tools store them: nine bytes a word, OPB first (30_encoding R110). It
answers the instruction and the bytes after it. -/
def decodeBytes : List Byte → Except DecodeError (Instr × List Byte)
  | b0 :: b1 :: b2 :: b3 :: b4 :: b5 :: b6 :: b7 :: b8 :: rest =>
    .ok (decode (b0 ++ b1 ++ b2 ++ b3 ++ b4 ++ b5 ++ b6 ++ b7 ++ b8), rest)
  | short => .error (.truncated short.length)

/-- The field that encodes an operand A (30_encoding R103). -/
def encodeA : OperandA → Addr
  | .acc => 0xFFFF#16
  | .mem addr => addr

/-- The opcode byte of an instruction (30_encoding R106; for an unassigned byte, its two nibbles). -/
def opcodeByte : Instr → Byte
  | .macs _ _ _ _ => 0x00#8
  | .macsn _ _ _ _ => 0x01#8
  | .macw _ _ _ _ => 0x02#8
  | .macwn _ _ _ _ => 0x03#8
  | .macints _ _ _ _ => 0x04#8
  | .macintw _ _ _ _ => 0x05#8
  | .acc3 _ _ _ _ => 0x06#8
  | .macmv _ _ _ _ => 0x07#8
  | .andxor _ _ _ _ => 0x08#8
  | .testneg _ _ _ _ => 0x09#8
  | .limit _ _ _ _ => 0x0A#8
  | .limitl _ _ _ _ => 0x0B#8
  | .log _ _ _ _ => 0x0C#8
  | .exp _ _ _ _ => 0x0D#8
  | .interp _ _ _ _ => 0x0E#8
  | .skip _ _ _ _ => 0x0F#8
  | .unassigned10 low _ _ _ _ => 0x1#4 ++ low
  | .unassigned20 low _ _ _ _ => 0x2#4 ++ low
  | .unassigned30 low _ _ _ _ => 0x3#4 ++ low
  | .unassigned40 low _ _ _ _ => 0x4#4 ++ low
  | .unassigned50 low _ _ _ _ => 0x5#4 ++ low
  | .unassigned60 low _ _ _ _ => 0x6#4 ++ low
  | .unassigned70 low _ _ _ _ => 0x7#4 ++ low
  | .unassigned80 low _ _ _ _ => 0x8#4 ++ low
  | .unassigned90 low _ _ _ _ => 0x9#4 ++ low
  | .unassignedA0 low _ _ _ _ => 0xA#4 ++ low
  | .unassignedB0 low _ _ _ _ => 0xB#4 ++ low
  | .unassignedC0 low _ _ _ _ => 0xC#4 ++ low
  | .unassignedD0 low _ _ _ _ => 0xD#4 ++ low
  | .unassignedE0 low _ _ _ _ => 0xE#4 ++ low
  | .unassignedF0 low _ _ _ _ => 0xF#4 ++ low

/-- The encoder: the five fields in the order of 30_encoding R101. -/
def encode (i : Instr) : InstrWord :=
  opcodeByte i ++ i.fields.r ++ encodeA i.fields.a ++ i.fields.x ++ i.fields.y

/-- A word as the nine bytes of 30_encoding R110, most significant first. -/
def wordBytes (w : InstrWord) : List Byte :=
  [w.extractLsb' 64 8, w.extractLsb' 56 8, w.extractLsb' 48 8, w.extractLsb' 40 8, w.extractLsb' 32 8,
    w.extractLsb' 24 8, w.extractLsb' 16 8, w.extractLsb' 8 8, w.extractLsb' 0 8]

/-- An instruction as its nine bytes (30_encoding R110). -/
def encodeBytes (i : Instr) : List Byte := wordBytes (encode i)

/-- What the decoder reads from a row's bits: the row is one 72-bit word whose bit 0 is `W[0]`, so the bits
above `nbits` are 0; more bits than a word has are no instruction. The word is laid out in its nine bytes
and given to the byte decoder. -/
def decodeTableWord (nbits w : Nat) : Option Instr :=
  if w % 2 ^ nbits < 2 ^ 72 then
    match decodeBytes (wordBytes (BitVec.ofNat 72 (w % 2 ^ nbits))) with
    | .ok (i, _) => some i
    | .error _ => none
  else none

end Sys2Proof
end

