-- ==== Sys2Proof/Machine/State.lean ====
section
/-! DEFINITION. The state the spec gives the machine (10_state R20), what stops a step, and the state after
reset (70_reset_and_hazards R250). -/

namespace Sys2Proof.Machine

/-- The accumulator's four fields (10_state R25): a sign (true = negative) and a magnitude
`guard * 2^64 + hi * 2^32 + lo`. -/
structure Accumulator where
  s : Bool
  lo : BitVec 32
  hi : BitVec 32
  guard : BitVec 3
  deriving DecidableEq, Repr

/-- The internal transfer RAM's contents: (word address, word) pairs, addresses strictly rising and no word 0,
which is what an unlisted address reads as (its reset value, 70_reset_and_hazards R250). One entry is one
32-bit word, the store's smallest unit (20_memory R68). Log 8. -/
abbrev Memory := List (Nat × Word)

/-- A program (10_state R33): its instructions, and the three size declarations the core never reads. The
instructions are kept as the words of 30_encoding R100 and decoded when they run (log 10). -/
structure Program where
  words : List InstrWord
  gprCount : Nat
  itramDecl : Nat
  xtramDecl : Nat
  deriving DecidableEq, Repr

/-- Where the engine is: between ticks, or in a tick with `ip` the next instruction (10_state R34). -/
inductive Phase where
  | idle
  | running (ip : Nat)
  deriving DecidableEq, Repr

/-- The host's calls (60_exceptions R227). Bus addresses are any integers (20_memory R67). -/
inductive HostCall where
  | peek (a : Int)
  | poke (a : Int) (v : Word)
  | accRead
  | accWrite (v : DWord)
  | loadProgram (p : Program)
  | tick
  deriving DecidableEq, Repr

/-- What a host call returned: `peek` an int32, `accRead` an int64 (60_exceptions R227). -/
inductive Reply where
  | word (v : Word)
  | acc (v : DWord)
  deriving DecidableEq, Repr

/-- The machine's state (10_state R20). The last four fields are the model's own: the noise source's draw
count, the record of collaborator accesses (60_exceptions R231), the host's replies and the host's calls
still to come (60_exceptions R227, R228). -/
structure State where
  gpr : Vector Word 256
  itramAddr : Vector Word 128
  xtramAddr : Vector Word 128
  itram : Memory
  acc : Accumulator
  tick : Word
  noise0 : Word
  noise1 : Word
  program : Program
  phase : Phase
  draws : Nat
  events : List Event
  replies : List Reply
  host : List HostCall
  deriving DecidableEq, Repr

/-- What can stop the machine with a fault: nothing, "No instruction, bus access or accumulator operation
raises an exception" (60_exceptions R220). The type has no constructor, so no step can fault: neither safe
nor unsafe, it is the spec's own statement (log 13). -/
inductive Fault where
  deriving DecidableEq, Repr

/-- Why a step or a host call is refused. -/
inductive Refusal where
  /-- Raised by `exec` for an instruction that has no meaning yet; no arm of this model does. Safe: nothing
  is claimed of the instruction. -/
  | notModelled (mnemonic : String)
  /-- Raised by `hostCall` for a call that overlaps a running tick, which "a model refuses"
  (60_exceptions R228, 93 K16). Safe: no behaviour is claimed. -/
  | hostCallDuringTick
  deriving DecidableEq, Repr

/-- The outcome of an instruction or a step of this machine. -/
abbrev Outcome := Host.Outcome State Fault Refusal

def State.setGpr (s : State) (g : Vector Word 256) : State := { s with gpr := g }
def State.setItramAddr (s : State) (g : Vector Word 128) : State := { s with itramAddr := g }
def State.setXtramAddr (s : State) (g : Vector Word 128) : State := { s with xtramAddr := g }
def State.setItram (s : State) (m : Memory) : State := { s with itram := m }
def State.setAcc (s : State) (c : Accumulator) : State := { s with acc := c }
def State.setTick (s : State) (v : Word) : State := { s with tick := v }
def State.setPhase (s : State) (p : Phase) : State := { s with phase := p }
def State.setProgram (s : State) (p : Program) : State := { s with program := p }
def State.setHost (s : State) (h : List HostCall) : State := { s with host := h }
def State.logEvent (s : State) (e : Event) : State := { s with events := e :: s.events }
def State.logReply (s : State) (r : Reply) : State := { s with replies := r :: s.replies }

/-- The machine right after reset, the engine's construction (70_reset_and_hazards R250): every register and
store word 0, the program empty, each noise register one draw. No tick runs and no call is pending. -/
def State.reset : State where
  gpr := Vector.replicate 256 0#32
  itramAddr := Vector.replicate 128 0#32
  xtramAddr := Vector.replicate 128 0#32
  itram := []
  acc := ⟨false, 0#32, 0#32, 0#3⟩
  tick := 0#32
  noise0 := Config.noise 0 .n0
  noise1 := Config.noise 0 .n1
  program := ⟨[], 0, 0, 0⟩
  phase := .idle
  draws := 1
  events := []
  replies := []
  host := []

end Sys2Proof.Machine
end

