-- ==== Sys2Proof/Machine/Arith.lean ====
section
/-! DEFINITION. The width primitives that every rule of the spec uses (00_scope R8), over mathematical integers. -/

namespace Sys2Proof.Machine

/-- `sext_N(v)` of 00_scope R8, for an N-bit pattern read as a number in `0 .. 2^n - 1`. -/
def sext (n : Nat) (v : Int) : Int :=
  if ((2 ^ (n - 1) : Nat) : Int) ≤ v then v - ((2 ^ n : Nat) : Int) else v

/-- `wrap_N(v)` of 00_scope R8: high bits discarded. -/
def wrap (n : Nat) (v : Int) : Int := sext n (v % ((2 ^ n : Nat) : Int))

/-- `sat_N(v)` of 00_scope R8: clamped to the N-bit signed range. -/
def sat (n : Nat) (v : Int) : Int :=
  if ((2 ^ (n - 1) : Nat) : Int) - 1 < v then ((2 ^ (n - 1) : Nat) : Int) - 1
  else if v < -((2 ^ (n - 1) : Nat) : Int) then -((2 ^ (n - 1) : Nat) : Int)
  else v

/-- `asr(v, k)` of 00_scope R8: `floor(v / 2^k)` (92 D18). -/
def asr (v : Int) (k : Nat) : Int := v / ((2 ^ k : Nat) : Int)

/-- An `int32` as the 32-bit pattern a register holds. -/
def word (v : Int) : Word := BitVec.ofInt 32 v

/-- An `int64` as its 64-bit pattern. -/
def dword (v : Int) : DWord := BitVec.ofInt 64 v

/-- The exact product of two `int32` values (40_execution R140). -/
def mul (x y : Word) : Int := x.toInt * y.toInt

end Sys2Proof.Machine
end

