-- ==== Sys2Proof/Machine/Accum.lean ====
section
/-! DEFINITION. The accumulator's operations and read views (10_state R25, R26; 40_execution R120 to R128). -/

namespace Sys2Proof.Machine

/-- The magnitude `M` (10_state R25). -/
def Accumulator.mag (c : Accumulator) : Nat :=
  c.guard.toNat * 0x10000000000000000 + c.hi.toNat * 0x100000000 + c.lo.toNat

/-- The value `V`: `-M` if `s = 1`, else `M` (10_state R25). -/
def Accumulator.value (c : Accumulator) : Int := if c.s then -(c.mag : Int) else c.mag

/-- The three limbs of a magnitude, which drop a carry out of bit 66 (10_state R25, 40_execution R122). -/
def Accumulator.ofMag (s : Bool) (m : Nat) : Accumulator :=
  ⟨s, BitVec.ofNat 32 m, BitVec.ofNat 32 (m / 0x100000000), BitVec.ofNat 3 (m / 0x10000000000000000)⟩

/-- `AccWrite(v)` (40_execution R120). -/
def Accumulator.write (v : Int) : Accumulator := Accumulator.ofMag (decide (v < 0)) v.natAbs

/-- `AccAdd(v)`: like signs add magnitudes modulo 2^67, unlike signs subtract the smaller from the larger,
equal magnitudes give a positive zero (40_execution R121, R122). -/
def Accumulator.add (c : Accumulator) (v : Int) : Accumulator :=
  if decide (v < 0) = c.s then Accumulator.ofMag c.s (c.mag + v.natAbs)
  else if v.natAbs < c.mag then Accumulator.ofMag c.s (c.mag - v.natAbs)
  else if c.mag < v.natAbs then Accumulator.ofMag (decide (v < 0)) (v.natAbs - c.mag)
  else Accumulator.ofMag false 0

/-- `AccRead()`, the full wrapped view (40_execution R123). -/
def Accumulator.read (c : Accumulator) : DWord := dword (wrap 64 c.value)

/-- `AccReadSat()`, the full saturated view (40_execution R124). -/
def Accumulator.readSat (c : Accumulator) : DWord := dword (sat 64 c.value)

/-- `AccReadLowWrap()` (40_execution R125; the choice of 32 bits is 90 C2's). -/
def Accumulator.readLowWrap (c : Accumulator) : Word := word (wrap 32 c.value)

/-- `AccReadLowSat()` (40_execution R126; the bit-31 case is 90 C3's). -/
def Accumulator.readLowSat (c : Accumulator) : Word := word (sat 32 c.value)

/-- `VH`, the signed magnitude bits 66..31 (40_execution R127). -/
def Accumulator.high (c : Accumulator) : Int :=
  if c.s then -((c.mag / 0x80000000 : Nat) : Int) else ((c.mag / 0x80000000 : Nat) : Int)

/-- `AccReadHiWrap()`, which no opcode reads (40_execution R127). -/
def Accumulator.readHiWrap (c : Accumulator) : Word := word (wrap 32 c.high)

/-- `AccReadHiSat()`, which no opcode reads (40_execution R127). -/
def Accumulator.readHiSat (c : Accumulator) : Word := word (sat 32 c.high)

end Sys2Proof.Machine
end

