-- ==== Sys2Proof/Machine/Banks.lean ====
section
/-! DEFINITION. The bank kinds (20_memory R50 to R54) and the internal transfer-RAM store. Every bank reads 0
out of range and drops a write there; indices are integers, so a negative one is out of range (20_memory R50). -/

namespace Sys2Proof.Machine

/-- `read` of an Array bank (20_memory R52). -/
def arrayRead {n : Nat} (store : Vector Word n) (a : Int) : Word :=
  if h : 0 ≤ a ∧ a.toNat < n then store[a.toNat]'h.2 else 0#32

/-- `write` of an Array bank (20_memory R52). -/
def arrayWrite {n : Nat} (store : Vector Word n) (a : Int) (v : Word) : Vector Word n :=
  if h : 0 ≤ a ∧ a.toNat < n then store.set a.toNat v h.2 else store

/-- `eff(i)` of an Indirect bank: the backend address of channel `i`, a 32-bit two's-complement sum with no
reduction by the store's size; `none` where the channel is out of range (20_memory R54, R55). -/
def indirectAddr {n : Nat} (addrRegs : Vector Word n) (tick : Word) (i : Int) : Option Int :=
  if h : 0 ≤ i ∧ i.toNat < n then some (wrap 32 (tick.toInt + (addrRegs[i.toNat]'h.2).toInt)) else none

/-- The word an address of the store holds; an unlisted one holds 0 (70_reset_and_hazards R250). -/
def memRead : Memory → Nat → Word
  | [], _ => 0#32
  | (k, v) :: rest, a => if k = a then v else memRead rest a

/-- An entry for `a`, or none where the word is what an unlisted address reads as. -/
def memEntry (a : Nat) (v : Word) (rest : Memory) : Memory := if v = 0#32 then rest else (a, v) :: rest

/-- A write that keeps the canonical form: addresses rising, no word 0 listed. -/
def memWrite : Memory → Nat → Word → Memory
  | [], a, v => memEntry a v []
  | (k, u) :: rest, a, v =>
    if a < k then memEntry a v ((k, u) :: rest)
    else if a = k then memEntry a v rest
    else (k, u) :: memWrite rest a v

/-- Every listed address is above `lo` and they rise strictly; no listed word is 0. -/
def memRises (lo : Nat) : Memory → Bool
  | [] => true
  | (k, v) :: rest => decide (lo < k) && v != 0#32 && memRises k rest

/-- The canonical form of a store's contents: addresses strictly rising, no entry that an unlisted address
would read as. -/
def Memory.wf : Memory → Bool
  | [] => true
  | (k, v) :: rest => v != 0#32 && memRises k rest

/-- Every listed address lies inside a store of `size` words. -/
def memWithin (size : Nat) (m : Memory) : Bool := m.all fun e => decide (e.1 < size)

/-- `read` of the internal transfer RAM, an Array bank of ITRAM_SIZE words (10_state R23, 20_memory R52, R64). -/
def itramRead (m : Memory) (e : Int) : Word :=
  if 0 ≤ e ∧ e < (Config.itramSize : Int) then memRead m e.toNat else 0#32

/-- `write` of the internal transfer RAM (10_state R23, 20_memory R52, R64). -/
def itramWrite (m : Memory) (e : Int) (v : Word) : Memory :=
  if 0 ≤ e ∧ e < (Config.itramSize : Int) then memWrite m e.toNat v else m

end Sys2Proof.Machine
end

