-- ==== Sys2Proof/Machine/Flags.lean ====
section
/-! DEFINITION. The core has no status flags (10_state R34): the condition-code register is the constant 0. What
stands here beside it are the two conditions that instructions test: the comparison of A with Y, and LIMIT's
negate flag. -/

namespace Sys2Proof.Machine

/-- The CCR: reads 0 at all times; nothing sets it (10_state R29, 92 D13). -/
def ccr : Word := 0#32

/-- `la >= y`: the signed comparison at extended precision of TESTNEG, LIMIT and LIMITL
(42_logic_compare R171 to R173). -/
def aboveOrEqual (la : DWord) (y : Word) : Bool := decide (y.toInt ≤ la.toInt)

/-- LIMIT's negate flag, bit 0 of the opcode (30_encoding R107). -/
def negateFlag (op : BitVec 4) : Bool := op.getLsbD 0

end Sys2Proof.Machine
end

