-- ==== Sys2Proof/Machine/Bus.lean ====
section
/-! DEFINITION. The register bus: the composed 16-bit map, its tree of Split banks, the system leaf and the
accesses to each bank (20_memory R57 to R67). A read is given in two parts: the value it returns (`busValue`)
and what it leaves behind (`busTouch`), which is a record of the access at a collaborator and nothing else
(20_memory R70). -/

namespace Sys2Proof.Machine

/-- The banks that the composed map names (20_memory R57, R58). -/
inductive Leaf where
  | port (p : Port)
  | sys
  | gpr
  | itramWindow
  | xtramWindow
  | itramAddr
  | xtramAddr
  | empty
  deriving DecidableEq, Repr

/-- The map of 20_memory R57: the bank an address selects and the index passed to it. Addresses outside
0..0xFFFF are out of range (20_memory R67) and, like the reserved regions (20_memory R66), select the empty
bank. -/
def busMap (a : Int) : Leaf × Int :=
  if a < 0 then (.empty, a)
  else if a ≤ 0x000F then (.port .fxIn, a)
  else if a ≤ 0x001F then (.port .extIn, a - 0x0010)
  else if a ≤ 0x002F then (.port .extOut, a - 0x0020)
  else if a ≤ 0x003F then (.port .fx2, a - 0x0030)
  else if a ≤ 0x007F then (.sys, a - 0x0040)
  else if a ≤ 0x00FF then (.empty, a)
  else if a ≤ 0x01FF then (.gpr, a - 0x0100)
  else if a ≤ 0x027F then (.itramWindow, a - 0x0200)
  else if a ≤ 0x02FF then (.xtramWindow, a - 0x0280)
  else if a ≤ 0x037F then (.itramAddr, a - 0x0300)
  else if a ≤ 0x03FF then (.xtramAddr, a - 0x0380)
  else (.empty, a)

/-- A tree of Split banks over leaves (20_memory R53, R58). -/
inductive Bank where
  | leaf (l : Leaf)
  | split (selBits lowBits : Nat) (children : List Bank)

mutual
/-- The leaf an address reaches through Split banks, and the low bits forwarded to it; an address out of a
Split bank's range reaches the empty bank (20_memory R53). -/
def Bank.route : Bank → Int → Leaf × Int
  | .leaf l, a => (l, a)
  | .split selBits lowBits children, a =>
    if a < 0 ∨ ((2 ^ selBits : Nat) : Int) ≤ asr a lowBits then (.empty, a)
    else Bank.routeChild children (asr a lowBits).toNat (a % ((2 ^ lowBits : Nat) : Int))
/-- `child[sel]` given the forwarded low bits. -/
def Bank.routeChild : List Bank → Nat → Int → Leaf × Int
  | [], _, low => (.empty, low)
  | b :: _, 0, low => b.route low
  | _ :: rest, sel + 1, low => Bank.routeChild rest sel low
end

/-- The bank tree of 20_memory R58. -/
def busTree : Bank :=
  .split 6 10
    (.split 2 8
        [.split 2 6
            [.split 2 4 [.leaf (.port .fxIn), .leaf (.port .extIn), .leaf (.port .extOut), .leaf (.port .fx2)],
              .leaf .sys, .leaf .empty, .leaf .empty],
          .leaf .gpr,
          .split 1 7 [.leaf .itramWindow, .leaf .xtramWindow],
          .split 1 7 [.leaf .itramAddr, .leaf .xtramAddr]] ::
      List.replicate 63 (.leaf .empty))

/-- The constant table `C[0..21]`, the hexadecimal column of 20_memory R62. At offset 20 the decimal column says
1518271963, which is another number; log 28 (DEDUCED). -/
def constantTable : List Word :=
  [0x00000000#32, 0x00000001#32, 0x00000002#32, 0x00000003#32, 0x00000004#32, 0x00000008#32,
    0x00000010#32, 0x00000020#32, 0x00000100#32, 0x00010000#32, 0x00080000#32, 0x10000000#32,
    0x20000000#32, 0x40000000#32, 0x80000000#32, 0x7FFFFFFF#32, 0xFFFFFFFF#32, 0xFFFFFFFE#32,
    0xC0000000#32, 0x4F1BBCDC#32, 0x5A7EF9DB#32, 0x00100000#32]

/-- Offsets of the named system registers (20_memory R60). -/
def sysAccum : Int := 22
def sysCcr : Int := 23
def sysNoise0 : Int := 24
def sysNoise1 : Int := 25
def sysIrq : Int := 26
def sysTick : Int := 27

/-- A read of the system leaf at offset `o` (20_memory R60). The accumulator and the interrupt flag read 0
(10_state R27, R30). -/
def sysRead (o : Int) (s : State) : Word :=
  if o < 0 then 0#32
  else if o < 22 then constantTable.getD o.toNat 0#32
  else if o = sysAccum then 0#32
  else if o = sysCcr then ccr
  else if o = sysNoise0 then s.noise0
  else if o = sysNoise1 then s.noise1
  else if o = sysIrq then 0#32
  else if o = sysTick then s.tick
  else 0#32

/-- A write of the system leaf at offset `o`: only TICK takes it (20_memory R61; an IRQ write has no effect,
60_exceptions R223). -/
def sysWrite (o : Int) (v : Word) (s : State) : State := if o = sysTick then s.setTick v else s

/-- How many registers a collaborator's bank has (20_memory R59, 92 D29; 10_state R24). -/
def portSize : Port → Int
  | .fxIn => 16
  | .extIn => 16
  | .extOut => 16
  | .fx2 => 16
  | .xtram => (Config.xtramSize : Int)

/-- What a collaborator's bank answers to a read: 0 outside its range (60_exceptions R231 item 2), else the
environment's answer. -/
def portValue (p : Port) (i : Int) (s : State) : Word :=
  if 0 ≤ i ∧ i < portSize p then Config.answer s.draws s.events p i else 0#32

/-- The value a read of bank `l` at index `i` returns (20_memory R59, R60, R63 to R66). -/
def leafValue (l : Leaf) (i : Int) (s : State) : Word :=
  match l with
  | .port p => portValue p i s
  | .sys => sysRead i s
  | .gpr => arrayRead s.gpr i
  | .itramWindow =>
    match indirectAddr s.itramAddr s.tick i with
    | some e => itramRead s.itram e
    | none => 0#32
  | .xtramWindow =>
    match indirectAddr s.xtramAddr s.tick i with
    | some e => portValue .xtram e s
    | none => 0#32
  | .itramAddr => arrayRead s.itramAddr i
  | .xtramAddr => arrayRead s.xtramAddr i
  | .empty => 0#32

/-- What a read of bank `l` at index `i` leaves behind: the access, where it reaches a collaborator
(20_memory R59, R70). -/
def leafTouch (l : Leaf) (i : Int) (s : State) : State :=
  match l with
  | .port p => s.logEvent (.read p i (portValue p i s))
  | .sys => s
  | .gpr => s
  | .itramWindow => s
  | .xtramWindow =>
    match indirectAddr s.xtramAddr s.tick i with
    | some e => s.logEvent (.read .xtram e (portValue .xtram e s))
    | none => s
  | .itramAddr => s
  | .xtramAddr => s
  | .empty => s

/-- A write of `v` to bank `l` at index `i` (20_memory R59, R61, R63 to R66). -/
def leafWrite (l : Leaf) (i : Int) (v : Word) (s : State) : State :=
  match l with
  | .port p => s.logEvent (.write p i v)
  | .sys => sysWrite i v s
  | .gpr => s.setGpr (arrayWrite s.gpr i v)
  | .itramWindow =>
    match indirectAddr s.itramAddr s.tick i with
    | some e => s.setItram (itramWrite s.itram e v)
    | none => s
  | .xtramWindow =>
    match indirectAddr s.xtramAddr s.tick i with
    | some e => s.logEvent (.write .xtram e v)
    | none => s
  | .itramAddr => s.setItramAddr (arrayWrite s.itramAddr i v)
  | .xtramAddr => s.setXtramAddr (arrayWrite s.xtramAddr i v)
  | .empty => s

/-- The value `Read(a)` returns (00_scope R9, 20_memory R57). -/
def busValue (a : Int) (s : State) : Word := leafValue (busMap a).1 (busMap a).2 s

/-- The state `Read(a)` leaves (20_memory R70). -/
def busTouch (a : Int) (s : State) : State := leafTouch (busMap a).1 (busMap a).2 s

/-- `Write(a, v)` (00_scope R9, 20_memory R57). -/
def busWrite (a : Int) (v : Word) (s : State) : State := leafWrite (busMap a).1 (busMap a).2 v s

/-- An instruction's address field as a bus address: `zext_16` (30_encoding R104). -/
def busAddr (f : Addr) : Int := (f.toNat : Int)

end Sys2Proof.Machine
end

