-- ==== Sys2Proof/Machine/Operands.lean ====
section
/-! DEFINITION. The operand fetch that every instruction makes (40_execution R131, R132). -/

namespace Sys2Proof.Machine

/-- The fetched operands: A widened to 64 bits, X and Y (40_execution R131). -/
structure Operands where
  la : DWord
  x : Word
  y : Word
  deriving DecidableEq, Repr

/-- `a32 = lo32(la)` (40_execution R132). -/
def Operands.a32 (o : Operands) : Word := o.la.setWidth 32

/-- `la`: the accumulator's wrapped 64-bit view, or one bus read sign-extended (40_execution R131). -/
def operandA (a : OperandA) (s : State) : DWord :=
  match a with
  | .acc => s.acc.read
  | .mem addr => (busValue (busAddr addr) s).signExtend 64

/-- What fetching A leaves: a bus read's record; the accumulator form makes no access (40_execution R131). -/
def touchA (a : OperandA) (s : State) : State :=
  match a with
  | .acc => s
  | .mem addr => busTouch (busAddr addr) s

/-- The fetch, in the order A, X, Y (40_execution R131): the operands, and the state the two or three reads
leave. -/
def fetch (a : OperandA) (x y : Addr) (s : State) : Operands × State :=
  let s1 := touchA a s
  let s2 := busTouch (busAddr x) s1
  (⟨operandA a s, busValue (busAddr x) s1, busValue (busAddr y) s2⟩, busTouch (busAddr y) s2)

end Sys2Proof.Machine
end

