-- ==== Sys2Proof/Machine/Ops.lean ====
section
/-! DEFINITION. The instruction cycle that all instructions share: fetch, execute, write back (40_execution R130
to R135). The core has no exception to take and none to return from (60_exceptions R220, R222), so no such
operation stands here. -/

namespace Sys2Proof.Machine

/-- The bus address of the accumulator's register (20_memory R60). -/
def accumAddr : Addr := 0x0056#16

/-- Write-back: nothing without a result, nothing where R addresses the accumulator, else one bus write
(40_execution R134). -/
def writeBack (r : Addr) (res : Option Word) (s : State) : State :=
  match res with
  | none => s
  | some v => if r = accumAddr then s else busWrite (busAddr r) v s

/-- An opcode's own step: from the operands and the accumulator, the accumulator after the opcode's action
and an optional result (40_execution R133). -/
abbrev OpcodeRule := Operands → Accumulator → Accumulator × Option Word

/-- One instruction: operands fetched, the opcode's rule applied with its accumulator action first, the
result written back last (40_execution R130, R133, R134). -/
def cycle (rule : OpcodeRule) (r : Addr) (a : OperandA) (x y : Addr) (s : State) : Outcome :=
  let f := fetch a x y s
  let e := rule f.1 f.2.acc
  .next (writeBack r e.2 (f.2.setAcc e.1))

end Sys2Proof.Machine
end

