-- ==== Sys2Proof/Machine/InterpSkip.lean ====
section
/-! DEFINITION. Interpolation, skip and the unassigned opcode bytes (44_interp_skip). -/

namespace Sys2Proof.Machine

/-- INTERP's rule, with its two 64-bit wraps (44_interp_skip R200, 92 D22). -/
def interpRule : OpcodeRule := fun o _ =>
  let d := wrap 64 (o.y.toInt - o.la.toInt)
  let p := wrap 64 (o.x.toInt * d)
  let c := (Accumulator.write o.la.toInt).add (asr p 31)
  (c, some c.readLowSat)

/-- INTERP (44_interp_skip R200). -/
def execInterp (r : Addr) (a : OperandA) (x y : Addr) (s : State) : Outcome := cycle interpRule r a x y s

/-- No accumulator action and no result (44_interp_skip R201, R202). -/
def noOpRule : OpcodeRule := fun _ c => (c, none)

/-- SKIP: a no-op that fetches its operands (44_interp_skip R201). -/
def execSkip (r : Addr) (a : OperandA) (x y : Addr) (s : State) : Outcome := cycle noOpRule r a x y s

/-- Unassigned opcode bytes 0x10..0x1F (44_interp_skip R202). -/
def execUnassigned10 (_low : BitVec 4) (r : Addr) (a : OperandA) (x y : Addr) (s : State) : Outcome :=
  cycle noOpRule r a x y s

/-- Unassigned opcode bytes 0x20..0x2F (44_interp_skip R202). -/
def execUnassigned20 (_low : BitVec 4) (r : Addr) (a : OperandA) (x y : Addr) (s : State) : Outcome :=
  cycle noOpRule r a x y s

/-- Unassigned opcode bytes 0x30..0x3F (44_interp_skip R202). -/
def execUnassigned30 (_low : BitVec 4) (r : Addr) (a : OperandA) (x y : Addr) (s : State) : Outcome :=
  cycle noOpRule r a x y s

/-- Unassigned opcode bytes 0x40..0x4F (44_interp_skip R202). -/
def execUnassigned40 (_low : BitVec 4) (r : Addr) (a : OperandA) (x y : Addr) (s : State) : Outcome :=
  cycle noOpRule r a x y s

/-- Unassigned opcode bytes 0x50..0x5F (44_interp_skip R202). -/
def execUnassigned50 (_low : BitVec 4) (r : Addr) (a : OperandA) (x y : Addr) (s : State) : Outcome :=
  cycle noOpRule r a x y s

/-- Unassigned opcode bytes 0x60..0x6F (44_interp_skip R202). -/
def execUnassigned60 (_low : BitVec 4) (r : Addr) (a : OperandA) (x y : Addr) (s : State) : Outcome :=
  cycle noOpRule r a x y s

/-- Unassigned opcode bytes 0x70..0x7F (44_interp_skip R202). -/
def execUnassigned70 (_low : BitVec 4) (r : Addr) (a : OperandA) (x y : Addr) (s : State) : Outcome :=
  cycle noOpRule r a x y s

/-- Unassigned opcode bytes 0x80..0x8F (44_interp_skip R202). -/
def execUnassigned80 (_low : BitVec 4) (r : Addr) (a : OperandA) (x y : Addr) (s : State) : Outcome :=
  cycle noOpRule r a x y s

/-- Unassigned opcode bytes 0x90..0x9F (44_interp_skip R202). -/
def execUnassigned90 (_low : BitVec 4) (r : Addr) (a : OperandA) (x y : Addr) (s : State) : Outcome :=
  cycle noOpRule r a x y s

/-- Unassigned opcode bytes 0xA0..0xAF (44_interp_skip R202). -/
def execUnassignedA0 (_low : BitVec 4) (r : Addr) (a : OperandA) (x y : Addr) (s : State) : Outcome :=
  cycle noOpRule r a x y s

/-- Unassigned opcode bytes 0xB0..0xBF (44_interp_skip R202). -/
def execUnassignedB0 (_low : BitVec 4) (r : Addr) (a : OperandA) (x y : Addr) (s : State) : Outcome :=
  cycle noOpRule r a x y s

/-- Unassigned opcode bytes 0xC0..0xCF (44_interp_skip R202). -/
def execUnassignedC0 (_low : BitVec 4) (r : Addr) (a : OperandA) (x y : Addr) (s : State) : Outcome :=
  cycle noOpRule r a x y s

/-- Unassigned opcode bytes 0xD0..0xDF (44_interp_skip R202). -/
def execUnassignedD0 (_low : BitVec 4) (r : Addr) (a : OperandA) (x y : Addr) (s : State) : Outcome :=
  cycle noOpRule r a x y s

/-- Unassigned opcode bytes 0xE0..0xEF (44_interp_skip R202). -/
def execUnassignedE0 (_low : BitVec 4) (r : Addr) (a : OperandA) (x y : Addr) (s : State) : Outcome :=
  cycle noOpRule r a x y s

/-- Unassigned opcode bytes 0xF0..0xFF (44_interp_skip R202). -/
def execUnassignedF0 (_low : BitVec 4) (r : Addr) (a : OperandA) (x y : Addr) (s : State) : Outcome :=
  cycle noOpRule r a x y s

end Sys2Proof.Machine
end

