-- ==== Sys2Proof/Machine/LogExp.lean ====
section
/-! DEFINITION. The logarithm and exponential family, opcodes 12 and 13 (43_log_exp R180 to R182). The two
transfer functions are uninterpreted: all that is known of them is that they are total functions of their
three arguments and that EXP undoes LOG at one positive value (43_log_exp R182). -/

namespace Sys2Proof.Machine

/-- LOG_FN (43_log_exp R180). -/
def logFn (a x y : Word) : Word := Config.logFn a x y

/-- The positive value of 43_log_exp R182's round trip: some number in 1..2^31-1. -/
def roundTripValue : Word := BitVec.ofNat 32 (Config.roundTripSeed % 0x7FFFFFFF + 1)

/-- EXP_FN (43_log_exp R181): free, but for the one point where R182 makes it undo LOG_FN. Every pair of
functions that satisfies R182 is an instance, and every instance satisfies it (log 9). -/
def expFn (c x y : Word) : Word :=
  if c = logFn roundTripValue Config.roundTripX Config.roundTripY ∧ x = Config.roundTripX ∧ y = Config.roundTripY
  then roundTripValue
  else Config.expBase c x y

/-- A function of `a32`, X and Y whose value goes to R; the accumulator is unchanged (43_log_exp R180, R181). -/
def transferRule (f : Word → Word → Word → Word) : OpcodeRule := fun o c => (c, some (f o.a32 o.x o.y))

/-- LOG (43_log_exp R180). -/
def execLog (r : Addr) (a : OperandA) (x y : Addr) (s : State) : Outcome := cycle (transferRule logFn) r a x y s

/-- EXP (43_log_exp R181). -/
def execExp (r : Addr) (a : OperandA) (x y : Addr) (s : State) : Outcome := cycle (transferRule expFn) r a x y s

end Sys2Proof.Machine
end

