-- ==== Sys2Proof/Machine/Logic.lean ====
section
/-! DEFINITION. The bitwise and comparison family, opcodes 8 to 11 (42_logic_compare). -/

namespace Sys2Proof.Machine

/-- ANDXOR's rule: the result also loads the accumulator (42_logic_compare R170). -/
def andxorRule : OpcodeRule := fun o _ =>
  let v := (o.a32 &&& o.x) ^^^ o.y
  (Accumulator.write v.toInt, some v)

/-- ANDXOR (42_logic_compare R170). -/
def execAndxor (r : Addr) (a : OperandA) (x y : Addr) (s : State) : Outcome := cycle andxorRule r a x y s

/-- TESTNEG's rule: X, or its negation wrapped to 32 bits (42_logic_compare R171, 92 D20). -/
def testnegRule : OpcodeRule := fun o c =>
  (c, some (if aboveOrEqual o.la o.y then o.x else word (wrap 32 (-o.x.toInt))))

/-- TESTNEG (42_logic_compare R171). -/
def execTestneg (r : Addr) (a : OperandA) (x y : Addr) (s : State) : Outcome := cycle testnegRule r a x y s

/-- LIMIT and LIMITL: X where the comparison differs from the negate flag, else Y
(42_logic_compare R172, R173). -/
def limitRule (negate : Bool) : OpcodeRule := fun o c =>
  (c, some (if (aboveOrEqual o.la o.y).xor negate then o.x else o.y))

/-- LIMIT, opcode 0xA (42_logic_compare R172). -/
def execLimit (r : Addr) (a : OperandA) (x y : Addr) (s : State) : Outcome :=
  cycle (limitRule (negateFlag 0xA#4)) r a x y s

/-- LIMITL, opcode 0xB (42_logic_compare R173). -/
def execLimitl (r : Addr) (a : OperandA) (x y : Addr) (s : State) : Outcome :=
  cycle (limitRule (negateFlag 0xB#4)) r a x y s

end Sys2Proof.Machine
end

