-- ==== Sys2Proof/Machine/Mac.lean ====
section
/-! DEFINITION. The multiply-accumulate family, opcodes 0 to 7 (41_multiply_accumulate). -/

namespace Sys2Proof.Machine

/-- Load the accumulator from A, add `term`, and read the result through `view`. -/
def loadAdd (view : Accumulator → Word) (term : Operands → Int) : OpcodeRule := fun o _ =>
  let c := (Accumulator.write o.la.toInt).add (term o)
  (c, some (view c))

/-- The 1.31 product (40_execution R140). -/
def fracProduct (o : Operands) : Int := asr (mul o.x o.y) 31

/-- The 1.31 product of `-X`, negated at full width before the multiply (41_multiply_accumulate R151, 92 D19). -/
def fracProductNeg (o : Operands) : Int := asr (-o.x.toInt * o.y.toInt) 31

/-- The unshifted product (41_multiply_accumulate R154). -/
def intProduct (o : Operands) : Int := mul o.x o.y

/-- MACINTW's 31-bit view of the accumulator (41_multiply_accumulate R155). -/
def low31 (c : Accumulator) : Word := c.readLowWrap &&& 0x7FFFFFFF#32

/-- MACS (41_multiply_accumulate R150): the wrapped view is the source's, 90 C7. -/
def execMacs (r : Addr) (a : OperandA) (x y : Addr) (s : State) : Outcome :=
  cycle (loadAdd Accumulator.readLowWrap fracProduct) r a x y s

/-- MACSN (41_multiply_accumulate R151). -/
def execMacsn (r : Addr) (a : OperandA) (x y : Addr) (s : State) : Outcome :=
  cycle (loadAdd Accumulator.readLowWrap fracProductNeg) r a x y s

/-- MACW (41_multiply_accumulate R152): the saturated view is the source's, 90 C7. -/
def execMacw (r : Addr) (a : OperandA) (x y : Addr) (s : State) : Outcome :=
  cycle (loadAdd Accumulator.readLowSat fracProduct) r a x y s

/-- MACWN (41_multiply_accumulate R153). -/
def execMacwn (r : Addr) (a : OperandA) (x y : Addr) (s : State) : Outcome :=
  cycle (loadAdd Accumulator.readLowSat fracProductNeg) r a x y s

/-- MACINTS (41_multiply_accumulate R154). -/
def execMacints (r : Addr) (a : OperandA) (x y : Addr) (s : State) : Outcome :=
  cycle (loadAdd Accumulator.readLowSat intProduct) r a x y s

/-- MACINTW (41_multiply_accumulate R155). -/
def execMacintw (r : Addr) (a : OperandA) (x y : Addr) (s : State) : Outcome :=
  cycle (loadAdd low31 intProduct) r a x y s

/-- ACC3's rule: A loaded, X added, then Y (41_multiply_accumulate R156). -/
def acc3Rule : OpcodeRule := fun o _ =>
  let c := ((Accumulator.write o.la.toInt).add o.x.toInt).add o.y.toInt
  (c, some c.readLowSat)

/-- ACC3 (41_multiply_accumulate R156). -/
def execAcc3 (r : Addr) (a : OperandA) (x y : Addr) (s : State) : Outcome := cycle acc3Rule r a x y s

/-- MACMV's rule: the product joins the accumulator, which A does not load; A goes to R
(41_multiply_accumulate R157; unshifted by 90 C8). -/
def macmvRule : OpcodeRule := fun o c => (c.add (mul o.x o.y), some o.a32)

/-- MACMV (41_multiply_accumulate R157). -/
def execMacmv (r : Addr) (a : OperandA) (x y : Addr) (s : State) : Outcome := cycle macmvRule r a x y s

end Sys2Proof.Machine
end

