-- ==== Sys2Proof/Machine/Dispatch.lean ====
section
/-! DEFINITION. Each instruction's meaning, one arm for each constructor. -/

namespace Sys2Proof.Machine

def exec (i : Instr) (s : State) : Host.Outcome State Fault Refusal :=
  match i with
  | .macs r a x y => Sys2Proof.Machine.execMacs r a x y s
  | .macsn r a x y => Sys2Proof.Machine.execMacsn r a x y s
  | .macw r a x y => Sys2Proof.Machine.execMacw r a x y s
  | .macwn r a x y => Sys2Proof.Machine.execMacwn r a x y s
  | .macints r a x y => Sys2Proof.Machine.execMacints r a x y s
  | .macintw r a x y => Sys2Proof.Machine.execMacintw r a x y s
  | .acc3 r a x y => Sys2Proof.Machine.execAcc3 r a x y s
  | .macmv r a x y => Sys2Proof.Machine.execMacmv r a x y s
  | .andxor r a x y => Sys2Proof.Machine.execAndxor r a x y s
  | .testneg r a x y => Sys2Proof.Machine.execTestneg r a x y s
  | .limit r a x y => Sys2Proof.Machine.execLimit r a x y s
  | .limitl r a x y => Sys2Proof.Machine.execLimitl r a x y s
  | .log r a x y => Sys2Proof.Machine.execLog r a x y s
  | .exp r a x y => Sys2Proof.Machine.execExp r a x y s
  | .interp r a x y => Sys2Proof.Machine.execInterp r a x y s
  | .skip r a x y => Sys2Proof.Machine.execSkip r a x y s
  | .unassigned10 low r a x y => Sys2Proof.Machine.execUnassigned10 low r a x y s
  | .unassigned20 low r a x y => Sys2Proof.Machine.execUnassigned20 low r a x y s
  | .unassigned30 low r a x y => Sys2Proof.Machine.execUnassigned30 low r a x y s
  | .unassigned40 low r a x y => Sys2Proof.Machine.execUnassigned40 low r a x y s
  | .unassigned50 low r a x y => Sys2Proof.Machine.execUnassigned50 low r a x y s
  | .unassigned60 low r a x y => Sys2Proof.Machine.execUnassigned60 low r a x y s
  | .unassigned70 low r a x y => Sys2Proof.Machine.execUnassigned70 low r a x y s
  | .unassigned80 low r a x y => Sys2Proof.Machine.execUnassigned80 low r a x y s
  | .unassigned90 low r a x y => Sys2Proof.Machine.execUnassigned90 low r a x y s
  | .unassignedA0 low r a x y => Sys2Proof.Machine.execUnassignedA0 low r a x y s
  | .unassignedB0 low r a x y => Sys2Proof.Machine.execUnassignedB0 low r a x y s
  | .unassignedC0 low r a x y => Sys2Proof.Machine.execUnassignedC0 low r a x y s
  | .unassignedD0 low r a x y => Sys2Proof.Machine.execUnassignedD0 low r a x y s
  | .unassignedE0 low r a x y => Sys2Proof.Machine.execUnassignedE0 low r a x y s
  | .unassignedF0 low r a x y => Sys2Proof.Machine.execUnassignedF0 low r a x y s

end Sys2Proof.Machine
end

