-- ==== Sys2Proof/Machine/Tick.lean ====
section
/-! DEFINITION. The tick, the host's calls and what one step does in each phase (40_execution R136 to R139,
60_exceptions R227 and R228). One step is one host call, one instruction, or the end of a tick (log 1). -/

namespace Sys2Proof.Machine

/-- Both noise registers given fresh values by the noise source (40_execution R137 step 1, 60_exceptions R230). -/
def State.drawNoise (s : State) : State :=
  { s with noise0 := Config.noise s.draws .n0, noise1 := Config.noise s.draws .n1, draws := s.draws + 1 }

/-- The start of a tick: both noise values drawn, the index at the first instruction (40_execution R137 step 1). -/
def startTick (s : State) : State := s.drawNoise.setPhase (.running 0)

/-- The end of a tick: the counter as it stands now, plus one (40_execution R137 step 3). -/
def endTick (s : State) : State := (s.setTick (word (wrap 32 (s.tick.toInt + 1)))).setPhase .idle

/-- A call of the host: its effect between ticks (60_exceptions R227); during a tick it is refused
(60_exceptions R228). -/
def hostCall (c : HostCall) (s : State) : Outcome :=
  match s.phase with
  | .running _ => .refused .hostCallDuringTick
  | .idle =>
    match c with
    | .peek a => .next ((busTouch a s).logReply (.word (busValue a s)))
    | .poke a v => .next (busWrite a v s)
    | .accRead => .next (s.logReply (.acc s.acc.read))
    | .accWrite v => .next (s.setAcc (Accumulator.write v.toInt))
    | .loadProgram p => .next (s.setProgram p)
    | .tick => .next (startTick s)

/-- A step between ticks: the host's next call, or nothing (60_exceptions R227, R235). -/
def betweenTicks (s : State) : Outcome :=
  match s.host with
  | [] => .next s
  | c :: rest => hostCall c (s.setHost rest)

/-- The outcome of an instruction with the index moved past it (10_state R34, 40_execution R136). -/
def advance (ip : Nat) (o : Outcome) : Outcome :=
  match o with
  | .next t => .next (t.setPhase (.running (ip + 1)))
  | .fault f => .fault f
  | .refused q => .refused q

/-- A step in a tick: the instruction at the index, or the tick's end after the last (40_execution R136, R137). -/
def duringTick (ip : Nat) (s : State) : Outcome :=
  match s.program.words[ip]? with
  | some w => advance ip (exec (decode w) s)
  | none => .next (endTick s)

/-- The program's words run in order from a state, as step 2 of 40_execution R137 says it; the whole pass at
once, which `step` takes one instruction at a time. -/
def runWords : List InstrWord → State → Outcome
  | [], s => .next s
  | w :: rest, s =>
    match exec (decode w) s with
    | .next t => runWords rest t
    | .fault f => .fault f
    | .refused q => .refused q

/-- The index at which the next instruction is fetched: 0 for a tick not begun (10_state R34). -/
def nextIndex (s : State) : Nat :=
  match s.phase with
  | .idle => 0
  | .running ip => min ip s.program.words.length

/-- `s` with one word put where the next instruction is fetched, in a running tick: the load and the call of
`tick` that the host would make, without the noise draw (log 2). -/
def placeWord (s : State) (w : InstrWord) : State :=
  (s.setProgram { s.program with
    words := s.program.words.take (nextIndex s) ++ w :: s.program.words.drop (nextIndex s + 1) }).setPhase
      (.running (nextIndex s))

end Sys2Proof.Machine
end

