-- ==== Sys2Proof/Machine/Step.lean ====
section
/-! DEFINITION. One step of the machine (log 1). -/

namespace Sys2Proof.Machine

/-- One step: between ticks the host's next call, in a tick the next instruction or the tick's end. -/
def step (s : State) : Host.Outcome State Fault Refusal :=
  match s.phase with
  | .idle => betweenTicks s
  | .running ip => duringTick ip s

/-- `s` with the instruction whose bits are `w` stored where `step` fetches its next instruction; bit 0 of `w`
is `W[0]` (30_encoding R101) and the bits above `nbits` are 0. Log 2. -/
def State.withFetchWord (s : State) (nbits w : Nat) : State := placeWord s (BitVec.ofNat 72 (w % 2 ^ nbits))

end Sys2Proof.Machine
end

