-- ==== Sys2Proof/Machine/LogExpRef.lean ====
section
/-! DEFINITION. The reference instance of the two transfer functions (43_log_exp R183 to R186), the spec's own
design: for simulation and for the vectors marked with it. No instruction's meaning uses it (43_log_exp,
introduction; log 25). -/

namespace Sys2Proof.Machine

/-- `bitlen(n)` for `n` of at most `fuel` bits (43_log_exp R183). -/
def bitlenUpTo : Nat → Nat → Nat
  | 0, _ => 0
  | fuel + 1, n => if n = 0 then 0 else bitlenUpTo fuel (n / 2) + 1

/-- `bitlen(n)` for a number below 2^32 (43_log_exp R183). -/
def bitlen (n : Nat) : Nat := bitlenUpTo 32 n

/-- `E = x[4:0]` (43_log_exp R183). -/
def refMaxExp (x : Word) : Nat := x.toNat % 32

/-- `wd`, the exponent field's width, and `F`, the mantissa field's (43_log_exp R183). -/
def refExpWidth (x : Word) : Nat := bitlen (refMaxExp x)
def refFracWidth (x : Word) : Nat := 31 - refExpWidth x

/-- The signed result of a magnitude under sign mode `y[1:0]` (43_log_exp R184). -/
def refSigned (negIn : Bool) (y : Word) (mag : Nat) : Word :=
  if (negIn && !y.getLsbD 0).xor (y.getLsbD 1) then word (-(mag : Int)) else word mag

/-- The 31-bit magnitude of an input: `min(|v|, 2^31 - 1)` (43_log_exp R185, R186). -/
def refMag (v : Word) : Nat := min v.toInt.natAbs 0x7FFFFFFF

/-- The leading zeros of a nonzero magnitude in 31 bits (43_log_exp R185). -/
def refZeros (m : Nat) : Nat := 31 - bitlen m

/-- The code of a magnitude (43_log_exp R185). -/
def refLogCode (m : Nat) (x : Word) : Nat :=
  if m = 0 then 0
  else if refMaxExp x ≤ refZeros m then (m * 2 ^ refMaxExp x % 0x80000000) / 2 ^ refExpWidth x
  else (refMaxExp x - refZeros m) * 2 ^ refFracWidth x
    + (m * 2 ^ (refZeros m + 1) % 0x80000000) / 2 ^ refExpWidth x

/-- The magnitude of a code (43_log_exp R186). -/
def refExpMag (code : Nat) (x : Word) : Nat :=
  let e := code / 2 ^ refFracWidth x
  let frac := code % 2 ^ refFracWidth x * 2 ^ refExpWidth x
  if e = 0 then frac / 2 ^ refMaxExp x
  else if refMaxExp x < e then 0x7FFFFFFF
  else (0x80000000 + frac) / 2 ^ (refMaxExp x - e + 1)

/-- The reference `LOG_FN(a, x, y)` (43_log_exp R185). -/
def refLogFn (a x y : Word) : Word := refSigned (decide (a.toInt < 0)) y (refLogCode (refMag a) x)

/-- The reference `EXP_FN(c, x, y)` (43_log_exp R186). -/
def refExpFn (c x y : Word) : Word := refSigned (decide (c.toInt < 0)) y (refExpMag (refMag c) x)

end Sys2Proof.Machine
end

