-- ==== Sys2Proof/Safety.lean ====
section
/-! DEFINITION. The terms claims about the machine use: the invariant, an instruction's kind, and what an
instruction may leave changed. A run of this machine is safe when every step answers a next state
(60_exceptions R220). -/

namespace Sys2Proof.Machine

/-- The step from `s` neither faults nor is refused. -/
def SafeStep (s : State) : Prop := ∃ t, step s = .next t

/-- What every step keeps: the store's contents in canonical form and inside its ITRAM_SIZE words
(10_state R23), and the index never past the program's end (10_state R34: `ip` runs from 0 to L-1; L is the
moment before the tick's end). -/
structure State.Inv (s : State) : Prop where
  memoryCanonical : Memory.wf s.itram = true
  memoryInStore : memWithin Config.itramSize s.itram = true
  indexInProgram : ∀ ip, s.phase = .running ip → ip ≤ s.program.words.length

/-- The opcode byte is unassigned, 0x10..0xFF (30_encoding R102). -/
def isUnassigned : Instr → Bool
  | .macs _ _ _ _ => false
  | .macsn _ _ _ _ => false
  | .macw _ _ _ _ => false
  | .macwn _ _ _ _ => false
  | .macints _ _ _ _ => false
  | .macintw _ _ _ _ => false
  | .acc3 _ _ _ _ => false
  | .macmv _ _ _ _ => false
  | .andxor _ _ _ _ => false
  | .testneg _ _ _ _ => false
  | .limit _ _ _ _ => false
  | .limitl _ _ _ _ => false
  | .log _ _ _ _ => false
  | .exp _ _ _ _ => false
  | .interp _ _ _ _ => false
  | .skip _ _ _ _ => false
  | .unassigned10 _ _ _ _ _ => true
  | .unassigned20 _ _ _ _ _ => true
  | .unassigned30 _ _ _ _ _ => true
  | .unassigned40 _ _ _ _ _ => true
  | .unassigned50 _ _ _ _ _ => true
  | .unassigned60 _ _ _ _ _ => true
  | .unassigned70 _ _ _ _ _ => true
  | .unassigned80 _ _ _ _ _ => true
  | .unassigned90 _ _ _ _ _ => true
  | .unassignedA0 _ _ _ _ _ => true
  | .unassignedB0 _ _ _ _ _ => true
  | .unassignedC0 _ _ _ _ _ => true
  | .unassignedD0 _ _ _ _ _ => true
  | .unassignedE0 _ _ _ _ _ => true
  | .unassignedF0 _ _ _ _ _ => true

/-- The instructions that change the accumulator: "MAC, ACC3, MACMV, ANDXOR and INTERP" (10_state R20). -/
def changesAccumulator : Instr → Bool
  | .macs _ _ _ _ => true
  | .macsn _ _ _ _ => true
  | .macw _ _ _ _ => true
  | .macwn _ _ _ _ => true
  | .macints _ _ _ _ => true
  | .macintw _ _ _ _ => true
  | .acc3 _ _ _ _ => true
  | .macmv _ _ _ _ => true
  | .andxor _ _ _ _ => true
  | .testneg _ _ _ _ => false
  | .limit _ _ _ _ => false
  | .limitl _ _ _ _ => false
  | .log _ _ _ _ => false
  | .exp _ _ _ _ => false
  | .interp _ _ _ _ => true
  | .skip _ _ _ _ => false
  | .unassigned10 _ _ _ _ _ => false
  | .unassigned20 _ _ _ _ _ => false
  | .unassigned30 _ _ _ _ _ => false
  | .unassigned40 _ _ _ _ _ => false
  | .unassigned50 _ _ _ _ _ => false
  | .unassigned60 _ _ _ _ _ => false
  | .unassigned70 _ _ _ _ _ => false
  | .unassigned80 _ _ _ _ _ => false
  | .unassigned90 _ _ _ _ _ => false
  | .unassignedA0 _ _ _ _ _ => false
  | .unassignedB0 _ _ _ _ _ => false
  | .unassignedC0 _ _ _ _ _ => false
  | .unassignedD0 _ _ _ _ _ => false
  | .unassignedE0 _ _ _ _ _ => false
  | .unassignedF0 _ _ _ _ _ => false

/-- The instructions that have a result to write to R: all but SKIP and the unassigned opcode bytes
(41_multiply_accumulate, 42_logic_compare, 43_log_exp introductions; 44_interp_skip R200 to R202). -/
def writesResult : Instr → Bool
  | .macs _ _ _ _ => true
  | .macsn _ _ _ _ => true
  | .macw _ _ _ _ => true
  | .macwn _ _ _ _ => true
  | .macints _ _ _ _ => true
  | .macintw _ _ _ _ => true
  | .acc3 _ _ _ _ => true
  | .macmv _ _ _ _ => true
  | .andxor _ _ _ _ => true
  | .testneg _ _ _ _ => true
  | .limit _ _ _ _ => true
  | .limitl _ _ _ _ => true
  | .log _ _ _ _ => true
  | .exp _ _ _ _ => true
  | .interp _ _ _ _ => true
  | .skip _ _ _ _ => false
  | .unassigned10 _ _ _ _ _ => false
  | .unassigned20 _ _ _ _ _ => false
  | .unassigned30 _ _ _ _ _ => false
  | .unassigned40 _ _ _ _ _ => false
  | .unassigned50 _ _ _ _ _ => false
  | .unassigned60 _ _ _ _ _ => false
  | .unassigned70 _ _ _ _ _ => false
  | .unassigned80 _ _ _ _ _ => false
  | .unassigned90 _ _ _ _ _ => false
  | .unassignedA0 _ _ _ _ _ => false
  | .unassignedB0 _ _ _ _ _ => false
  | .unassignedC0 _ _ _ _ _ => false
  | .unassignedD0 _ _ _ _ _ => false
  | .unassignedE0 _ _ _ _ _ => false
  | .unassignedF0 _ _ _ _ _ => false

/-- The store word that a write to R reaches through the ITRAM window, as the write itself computes it
(20_memory R54, R64). -/
def itramTarget (r : Addr) (s : State) : Option Int :=
  match busMap (busAddr r) with
  | (.itramWindow, c) => indirectAddr s.itramAddr s.tick c
  | (.port _, _) => none
  | (.sys, _) => none
  | (.gpr, _) => none
  | (.xtramWindow, _) => none
  | (.itramAddr, _) => none
  | (.xtramAddr, _) => none
  | (.empty, _) => none

/-- `t` differs from `s` at most in the accumulator, the record of collaborator accesses, which grows by no more
than an instruction's four accesses (20_memory R70), and the one location that bus address `r` names. -/
structure FrameOutside (r : Addr) (s t : State) : Prop where
  gpr : ∀ (k : Nat) (h : k < 256), busMap (busAddr r) ≠ (.gpr, (k : Int)) → t.gpr[k] = s.gpr[k]
  itramAddr : ∀ (k : Nat) (h : k < 128), busMap (busAddr r) ≠ (.itramAddr, (k : Int)) → t.itramAddr[k] = s.itramAddr[k]
  xtramAddr : ∀ (k : Nat) (h : k < 128), busMap (busAddr r) ≠ (.xtramAddr, (k : Int)) → t.xtramAddr[k] = s.xtramAddr[k]
  itram : ∀ e : Int, itramTarget r s ≠ some e → itramRead t.itram e = itramRead s.itram e
  tick : busMap (busAddr r) ≠ (.sys, sysTick) → t.tick = s.tick
  noise0 : t.noise0 = s.noise0
  noise1 : t.noise1 = s.noise1
  program : t.program = s.program
  phase : t.phase = s.phase
  draws : t.draws = s.draws
  events : ∃ l : List Event, l.length ≤ 4 ∧ t.events = l ++ s.events
  replies : t.replies = s.replies
  host : t.host = s.host

/-- The bank an address selects belongs to the core: an access reaches no collaborator (20_memory R70). -/
def coreOwned (a : Int) : Prop :=
  match (busMap a).1 with
  | .port _ => False
  | .xtramWindow => False
  | .sys => True
  | .gpr => True
  | .itramWindow => True
  | .itramAddr => True
  | .xtramAddr => True
  | .empty => True

end Sys2Proof.Machine
end

