-- ==== Sys2Proof/Certificates/Slice0/Obligations.lean ====
section
/-! DEFINITION. The statements about the model that the provers settle. Each docstring names the rule of spec/
it formalises. In the instruction statements `f.1` is the fetched operands and `f.2` the state the fetch
leaves (40_execution R131), both of which `OperandFetchIsOrderedAndPure` describes; the write of the result
is `writeBack`, which `WriteBackSkipsTheAccumulatorRegister` and the statements about each bus region describe. -/

open Sys2Proof Sys2Proof.Machine

/-! ### Encoding -/

/-- Decoding an encoded well-formed instruction gives it back (30_encoding R101, R103, R106). -/
def Obligations.DecodeOfEncodeIsIdentity : Prop :=
  ∀ i : Instr, i.wellFormed = true → decode (encode i) = i

/-- Encoding a decoded word gives it back, and what a word decodes to is well formed (30_encoding R101 to R104). For
the words with an unassigned opcode byte the first clause holds because the term keeps the byte's low nibble, which
is the model's choice (log 20): R109 lets all those bytes mean one no-op. -/
def Obligations.EncodeOfDecodeIsIdentity : Prop :=
  ∀ w : InstrWord, encode (decode w) = w ∧ (decode w).wellFormed = true

/-- The decoder is total: every word has one opcode byte and the four fields that stand in it; different words
decode differently; all unassigned opcode bytes mean the same no-op (30_encoding R109). That two unassigned bytes
stay distinct as terms, and that a term gives its byte back, is the model's choice (log 20). -/
def Obligations.EveryWordDecodesToItsFields : Prop :=
  (∀ w : InstrWord, opcodeByte (decode w) = opbField w ∧
    (decode w).fields = ⟨rField w, decodeA (aField w), xField w, yField w⟩) ∧
  (∀ w w' : InstrWord, decode w = decode w' → w = w') ∧
  (∀ (w w' : InstrWord) (s : State), 16 ≤ (opbField w).toNat → 16 ≤ (opbField w').toNat →
    (decode w).fields = (decode w').fields → exec (decode w) s = exec (decode w') s)

/-- The opcode map (30_encoding R102, R106): which byte is which instruction, and that every other byte is
unassigned. -/
def Obligations.OpcodeBytesNameTheirInstructions : Prop :=
  ∀ (r : Addr) (a : OperandA) (x y : Addr),
    decodeOpcode 0x00#8 r a x y = .macs r a x y ∧ decodeOpcode 0x01#8 r a x y = .macsn r a x y ∧
    decodeOpcode 0x02#8 r a x y = .macw r a x y ∧ decodeOpcode 0x03#8 r a x y = .macwn r a x y ∧
    decodeOpcode 0x04#8 r a x y = .macints r a x y ∧ decodeOpcode 0x05#8 r a x y = .macintw r a x y ∧
    decodeOpcode 0x06#8 r a x y = .acc3 r a x y ∧ decodeOpcode 0x07#8 r a x y = .macmv r a x y ∧
    decodeOpcode 0x08#8 r a x y = .andxor r a x y ∧ decodeOpcode 0x09#8 r a x y = .testneg r a x y ∧
    decodeOpcode 0x0A#8 r a x y = .limit r a x y ∧ decodeOpcode 0x0B#8 r a x y = .limitl r a x y ∧
    decodeOpcode 0x0C#8 r a x y = .log r a x y ∧ decodeOpcode 0x0D#8 r a x y = .exp r a x y ∧
    decodeOpcode 0x0E#8 r a x y = .interp r a x y ∧ decodeOpcode 0x0F#8 r a x y = .skip r a x y ∧
    ∀ opb : Byte, 16 ≤ opb.toNat → isUnassigned (decodeOpcode opb r a x y) = true

/-- The words of 95_test_vectors L2-C decode to the instructions the table gives them. -/
def Obligations.SpecWordsDecode : Prop :=
  decode 0x000100FFFF01010102#72 = .macs 0x0100#16 .acc 0x0101#16 0x0102#16 ∧
  decode 0x0A0100010101020103#72 = .limit 0x0100#16 (.mem 0x0101#16) 0x0102#16 0x0103#16 ∧
  decode 0x0B0100010101020103#72 = .limitl 0x0100#16 (.mem 0x0101#16) 0x0102#16 0x0103#16 ∧
  decode 0x1A0100010101020103#72 = .unassigned10 0xA#4 0x0100#16 (.mem 0x0101#16) 0x0102#16 0x0103#16 ∧
  decode 0xFFFFFFFFFFFFFFFFFF#72 = .unassignedF0 0xF#4 0xFFFF#16 .acc 0xFFFF#16 0xFFFF#16 ∧
  decode 0x090100005601010102#72 = .testneg 0x0100#16 (.mem 0x0056#16) 0x0101#16 0x0102#16 ∧
  decode 0x00FFFF010101020103#72 = .macs 0xFFFF#16 (.mem 0x0101#16) 0x0102#16 0x0103#16 ∧
  decode 0x060056004000400040#72 = .acc3 0x0056#16 (.mem 0x0040#16) 0x0040#16 0x0040#16 ∧
  decode 0x0F0100010101020103#72 = .skip 0x0100#16 (.mem 0x0101#16) 0x0102#16 0x0103#16 ∧
  decodeBytes [0x0E#8, 0x01#8, 0x00#8, 0xFF#8, 0xFF#8, 0x01#8, 0x01#8, 0x01#8, 0x02#8] =
    .ok (.interp 0x0100#16 .acc 0x0101#16 0x0102#16, [])

/-- The stored form of 30_encoding R110: nine bytes, the opcode byte first; the byte decoder reads it back
with the bytes that follow untouched, and refuses by name a list too short for one word. -/
def Obligations.ByteFormRoundTrips : Prop :=
  (∀ i : Instr, (encodeBytes i).length = 9 ∧ (encodeBytes i).head? = some (opcodeByte i)) ∧
  (∀ (i : Instr) (rest : List Byte), i.wellFormed = true → decodeBytes (encodeBytes i ++ rest) = .ok (i, rest)) ∧
  (∀ bs : List Byte, bs.length < 9 → decodeBytes bs = .error (.truncated bs.length))

/-! ### Steps, ticks and the host -/

/-- In a tick, the step at an index that holds a word runs the instruction the word decodes to and moves the
index past it (10_state R34, 40_execution R136); after the last word it ends the tick. One instruction a step, and
what `withFetchWord` sets, are the model's choice (log 1, log 2). -/
def Obligations.StepRunsTheDecodedInstruction : Prop :=
  (∀ (s t : State) (ip : Nat) (w : InstrWord), s.phase = .running ip → s.program.words[ip]? = some w →
    exec (decode w) s = .next t → step s = .next (t.setPhase (.running (ip + 1)))) ∧
  (∀ (s : State) (nbits w : Nat) (t : State),
    exec (decode (BitVec.ofNat 72 (w % 2 ^ nbits))) (s.withFetchWord nbits w) = .next t →
    step (s.withFetchWord nbits w) = .next (t.setPhase (.running (nextIndex s + 1)))) ∧
  (∀ (s : State) (ip : Nat), s.phase = .running ip → s.program.words[ip]? = none → step s = .next (endTick s))

/-- One call of `tick()` (40_execution R137): both noise values are drawn, every word of the program runs once,
in order, and the counter that stands after the last one rises by 1, wrapping. That it takes L + 2 steps is the
model's choice (log 1), and the draws are the uninterpreted noise source's (log 4). -/
def Obligations.TickRunsTheProgramOnceTopToBottom : Prop :=
  ∀ (s : State) (rest : List HostCall), s.phase = .idle → s.host = .tick :: rest →
    ∃ t : State,
      runWords s.program.words
        { s with
          host := rest
          noise0 := Config.noise s.draws .n0
          noise1 := Config.noise s.draws .n1
          draws := s.draws + 1
          phase := .running 0 } = .next t ∧
      Host.Core.run Sys2Proof.core (s.program.words.length + 2) s =
        .next { t with tick := t.tick + 1#32, phase := .idle }

/-- Every step keeps the invariant, from every state that has it: the ITRAM list is in canonical form (the model's
representation, log 8) and inside the store's size (10_state R23), and the index is in the program (10_state R34). -/
def Obligations.StepKeepsTheInvariant : Prop :=
  ∀ s t : State, s.Inv → step s = .next t → t.Inv

/-- The state after reset has the invariant. -/
def Obligations.ResetHasTheInvariant : Prop := State.reset.Inv

/-- The values the table of 70_reset_and_hazards R250 gives the state after reset; each noise register holds
a draw of the noise source, of which nothing is said (log 4); the program is the empty list. -/
def Obligations.ResetStateIsTheSpecs : Prop :=
  (∀ (k : Nat) (h : k < 256), State.reset.gpr[k] = 0#32) ∧
  (∀ (k : Nat) (h : k < 128), State.reset.itramAddr[k] = 0#32 ∧ State.reset.xtramAddr[k] = 0#32) ∧
  (∀ e : Int, itramRead State.reset.itram e = 0#32) ∧
  State.reset.acc = ⟨false, 0#32, 0#32, 0#3⟩ ∧ State.reset.acc.value = 0 ∧
  State.reset.tick = 0#32 ∧ State.reset.program.words = [] ∧
  State.reset.noise0 = Config.noise 0 .n0 ∧ State.reset.noise1 = Config.noise 0 .n1 ∧
  busValue 0x57 State.reset = 0#32 ∧ busValue 0x5A State.reset = 0#32 ∧
  (∀ k : Nat, k < 22 → busValue (0x40 + (k : Int)) State.reset = constantTable.getD k 0#32)

/-- No instruction and no step raises an exception, in any state, and there is no cause code (60_exceptions R220). -/
def Obligations.NothingRaisesAnException : Prop :=
  (∀ (i : Instr) (s : State), ∃ t, exec i s = .next t) ∧ (∀ s : State, SafeStep s) ∧ (Fault → False)

/-- A host call during a tick is refused, and a tick's own steps take no call from the host and answer none
(60_exceptions R228). The queue of calls is the model's own (log 3). -/
def Obligations.HostActsOnlyBetweenTicks : Prop :=
  (∀ (c : HostCall) (s : State) (ip : Nat), s.phase = .running ip → hostCall c s = .refused .hostCallDuringTick) ∧
  (∀ (s t : State) (ip : Nat), s.phase = .running ip → step s = .next t → t.host = s.host ∧ t.replies = s.replies)

/-- The host operations of 60_exceptions R227, each one step between ticks. The step of `tick` begins the tick: it
makes both draws and puts the index at 0, and nothing else; the rest of the tick is
`TickRunsTheProgramOnceTopToBottom`. The queue of calls and the list of replies are the model's own (log 3, log 22),
as are that step (log 1) and the count of draws (log 4). -/
def Obligations.HostCallsHaveTheirEffects : Prop :=
  ∀ (s : State) (rest : List HostCall), s.phase = .idle →
    (∀ a, s.host = .peek a :: rest → step s =
      .next { busTouch a { s with host := rest } with
        replies := .word (busValue a s) :: s.replies }) ∧
    (s.host = .peek 0x56 :: rest → step s = .next { s with host := rest, replies := .word 0#32 :: s.replies }) ∧
    (∀ a v, s.host = .poke a v :: rest → step s = .next (busWrite a v { s with host := rest })) ∧
    (∀ v, s.host = .poke 0x5B v :: rest → step s = .next { s with host := rest, tick := v }) ∧
    (s.host = .accRead :: rest → step s =
      .next { s with host := rest, replies := .acc (BitVec.ofInt 64 s.acc.value) :: s.replies }) ∧
    (∀ v, s.host = .accWrite v :: rest → ∃ c, step s = .next { s with host := rest, acc := c } ∧ c.value = v.toInt) ∧
    (∀ p, s.host = .loadProgram p :: rest → step s = .next { s with host := rest, program := p }) ∧
    (s.host = .tick :: rest → step s =
      .next { s with
        host := rest
        noise0 := Config.noise s.draws .n0
        noise1 := Config.noise s.draws .n1
        draws := s.draws + 1
        phase := .running 0 })

/-- `loadProgram` replaces the program and changes nothing else: not the GPRs, address registers, ITRAM,
accumulator, tick counter or noise (70_reset_and_hazards R252). The only other change is that the call is made. -/
def Obligations.LoadProgramReplacesOnlyTheProgram : Prop :=
  ∀ (s : State) (p : Program) (rest : List HostCall), s.phase = .idle → s.host = .loadProgram p :: rest →
    ∃ t : State, step s = .next t ∧ t = { s with host := rest, program := p } ∧ t.program = p ∧ t.gpr = s.gpr ∧
      t.itramAddr = s.itramAddr ∧ t.xtramAddr = s.xtramAddr ∧ t.itram = s.itram ∧
      t.acc = s.acc ∧ t.tick = s.tick ∧ t.noise0 = s.noise0 ∧ t.noise1 = s.noise1 ∧ t.phase = s.phase ∧
      t.events = s.events

/-- Between ticks, with no call from the host, nothing happens and all state persists (60_exceptions R235). That a
step then answers the same state is the model's choice (log 3). -/
def Obligations.IdleMachineKeepsItsState : Prop :=
  ∀ s : State, s.phase = .idle → s.host = [] → step s = .next s

/-- The noise registers change only at the start of a tick, where each takes its draw, and the bus reads them
at 0x0058 and 0x0059 (70_reset_and_hazards R258, 40_execution R137, 60_exceptions R230, 20_memory R60). Which draw
each takes, the one the count of draws names, is the model's form of the noise source (log 4). -/
def Obligations.NoiseChangesOnlyAtTheStartOfATick : Prop :=
  (∀ s t : State, step s = .next t → (t.noise0 ≠ s.noise0 ∨ t.noise1 ≠ s.noise1) →
    s.phase = .idle ∧ (∃ rest, s.host = .tick :: rest) ∧
      t.noise0 = Config.noise s.draws .n0 ∧ t.noise1 = Config.noise s.draws .n1) ∧
  (∀ s : State, busValue 0x58 s = s.noise0 ∧ busValue 0x59 s = s.noise1)

/-- A write of TICK takes effect at once: every later indirect access of either window uses the new value, and
so does the end-of-tick increment (70_reset_and_hazards R257). -/
def Obligations.TickWriteGovernsLaterAccesses : Prop :=
  ∀ (s : State) (v : Word),
    (busWrite 0x5B v s).tick = v ∧
    (∀ (c : Nat) (h : c < 128),
      indirectAddr (busWrite 0x5B v s).itramAddr (busWrite 0x5B v s).tick c =
        some ((v.toInt + s.itramAddr[c].toInt).bmod (2 ^ 32)) ∧
      indirectAddr (busWrite 0x5B v s).xtramAddr (busWrite 0x5B v s).tick c =
        some ((v.toInt + s.xtramAddr[c].toInt).bmod (2 ^ 32))) ∧
    (endTick (busWrite 0x5B v s)).tick = v + 1#32

/-- No bus write changes an instruction; a step changes the program only where the host's `loadProgram` is made
between ticks (20_memory R74). -/
def Obligations.ProgramChangesOnlyByLoadProgram : Prop :=
  (∀ (a : Int) (v : Word) (s : State), (busWrite a v s).program = s.program) ∧
  (∀ s t : State, step s = .next t → t.program ≠ s.program →
    s.phase = .idle ∧ ∃ rest, s.host = .loadProgram t.program :: rest)

/-! ### The register bus -/

/-- The tree of Split banks and the table of addresses give the same accesses, at every address
(20_memory R57, R58) and outside the 16-bit range (20_memory R67). -/
def Obligations.BankTreeEqualsTheMap : Prop :=
  ∀ (a : Int) (v : Word) (s : State),
    leafValue (busTree.route a).1 (busTree.route a).2 s = busValue a s ∧
    leafTouch (busTree.route a).1 (busTree.route a).2 s = busTouch a s ∧
    leafWrite (busTree.route a).1 (busTree.route a).2 v s = busWrite a v s

/-- Reads of the system leaf (20_memory R60) and the constants' values (20_memory R62; at offset 20, where the
table's two columns differ, the hexadecimal one: log 28). -/
def Obligations.SystemLeafReads : Prop :=
  ∀ s : State,
    (List.range 22).map (fun k : Nat => busValue (0x40 + (k : Int)) s) =
      [0#32, 1#32, 2#32, 3#32, 4#32, 8#32, 16#32, 32#32, 256#32, 65536#32, 524288#32, 268435456#32,
        536870912#32, 1073741824#32, 0x80000000#32, 2147483647#32, 0xFFFFFFFF#32, 0xFFFFFFFE#32, 0xC0000000#32,
        0x4F1BBCDC#32, 0x5A7EF9DB#32, 0x00100000#32] ∧
    busValue 0x56 s = 0#32 ∧ busValue 0x57 s = 0#32 ∧ busValue 0x58 s = s.noise0 ∧ busValue 0x59 s = s.noise1 ∧
    busValue 0x5A s = 0#32 ∧ busValue 0x5B s = s.tick ∧
    ∀ a : Int, 0x5C ≤ a → a ≤ 0x7F → busValue a s = 0#32

/-- Writes of the system leaf: only TICK takes one; the constants, ACCUM, CCR, the noise registers, IRQ and the
reserved offsets change nothing at all (20_memory R61). -/
def Obligations.SystemLeafWrites : Prop :=
  ∀ (s : State) (v : Word),
    busWrite 0x5B v s = { s with tick := v } ∧
    ∀ a : Int, 0x40 ≤ a → a ≤ 0x7F → a ≠ 0x5B → busWrite a v s = s

/-- Reserved addresses (20_memory R66) and addresses outside 16 bits (20_memory R67) read 0, drop writes and
have no side effect; field A's 0xFFFF is no bus address but the accumulator. -/
def Obligations.ReservedAddressesReadZeroAndDropWrites : Prop :=
  (∀ (a : Int) (v : Word) (s : State),
    a < 0 ∨ (0x5C ≤ a ∧ a ≤ 0x7F) ∨ (0x80 ≤ a ∧ a ≤ 0xFF) ∨ 0x400 ≤ a →
    busValue a s = 0#32 ∧ busTouch a s = s ∧ busWrite a v s = s) ∧
  decodeA 0xFFFF#16 = .acc

/-- The GPR region (20_memory R63): address 0x0100 + i is GPR i, to read and to write. -/
def Obligations.GprRegionReadsAndWrites : Prop :=
  ∀ (s : State) (i : Nat) (h : i < 256) (v : Word),
    busValue (0x100 + (i : Int)) s = s.gpr[i] ∧
    busWrite (0x100 + (i : Int)) v s = { s with gpr := s.gpr.set i v }

/-- The address-register regions (20_memory R65): read and written like GPRs, and the same storage that gives
the windows their effective addresses, from the next access on. -/
def Obligations.AddressRegisterRegions : Prop :=
  ∀ (s : State) (c : Nat) (h : c < 128) (v : Word),
    busValue (0x300 + (c : Int)) s = s.itramAddr[c] ∧
    busValue (0x380 + (c : Int)) s = s.xtramAddr[c] ∧
    busWrite (0x300 + (c : Int)) v s = { s with itramAddr := s.itramAddr.set c v } ∧
    busWrite (0x380 + (c : Int)) v s = { s with xtramAddr := s.xtramAddr.set c v } ∧
    indirectAddr (busWrite (0x300 + (c : Int)) v s).itramAddr s.tick c = some ((s.tick.toInt + v.toInt).bmod (2 ^ 32)) ∧
    indirectAddr (busWrite (0x380 + (c : Int)) v s).xtramAddr s.tick c = some ((s.tick.toInt + v.toInt).bmod (2 ^ 32))

/-- The transfer-RAM windows (20_memory R64): channel c reaches store word wrap_32(tick + address register c),
where a read outside the store gives 0 and a write there is dropped (20_memory R54, R55); an XTRAM access
goes to the collaborator, which answers 0 outside its own store; in either window equal address registers reach one
word, and registers that differ by d reach words d apart. The list that holds ITRAM (log 8), the answer's form
(log 5), the 0 outside the collaborator's store (log 6) and the record of accesses (log 22) are the model's. -/
def Obligations.TransferWindows : Prop :=
  ∀ (s : State) (c : Nat) (h : c < 128) (v : Word),
    (let e := (s.tick.toInt + s.itramAddr[c].toInt).bmod (2 ^ 32)
     busValue (0x200 + (c : Int)) s =
       (if 0 ≤ e ∧ e < (Config.itramSize : Int) then memRead s.itram e.toNat else 0#32) ∧
     busWrite (0x200 + (c : Int)) v s =
       (if 0 ≤ e ∧ e < (Config.itramSize : Int) then { s with itram := memWrite s.itram e.toNat v } else s)) ∧
    (let e := (s.tick.toInt + s.xtramAddr[c].toInt).bmod (2 ^ 32)
     let answer := if 0 ≤ e ∧ e < (Config.xtramSize : Int) then Config.answer s.draws s.events .xtram e else 0#32
     busValue (0x280 + (c : Int)) s = answer ∧
     busTouch (0x280 + (c : Int)) s = { s with events := .read .xtram e answer :: s.events } ∧
     busWrite (0x280 + (c : Int)) v s = { s with events := .write .xtram e v :: s.events }) ∧
    (∀ (c' : Nat) (h' : c' < 128) (d : Int), s.itramAddr[c'].toInt = s.itramAddr[c].toInt + d →
      ∃ e, indirectAddr s.itramAddr s.tick c = some e ∧
        indirectAddr s.itramAddr s.tick c' = some ((e + d).bmod (2 ^ 32))) ∧
    (∀ (c' : Nat) (h' : c' < 128) (d : Int), s.xtramAddr[c'].toInt = s.xtramAddr[c].toInt + d →
      ∃ e, indirectAddr s.xtramAddr s.tick c = some e ∧
        indirectAddr s.xtramAddr s.tick c' = some ((e + d).bmod (2 ^ 32)))

/-- The I/O regions (20_memory R59): a read is one read of the collaborator's bank at `a - base`, whose answer
is the environment's, and is recorded; a write is one recorded write. The answer's form (log 5) and the record
(log 22) are the model's. -/
def Obligations.IoRegionsPassThrough : Prop :=
  ∀ (s : State) (i : Nat) (v : Word) (base : Int) (p : Port), i < 16 →
    (base, p) ∈ [((0x00 : Int), Port.fxIn), (0x10, .extIn), (0x20, .extOut), (0x30, .fx2)] →
    busValue (base + i) s = Config.answer s.draws s.events p i ∧
    busTouch (base + i) s =
      { s with events := .read p i (Config.answer s.draws s.events p i) :: s.events } ∧
    busWrite (base + i) v s = { s with events := .write p i v :: s.events }

/-- A write is visible to the very next read of its address (20_memory R72, 70_reset_and_hazards R255), in
every writable core-owned region: GPRs, both address-register arrays, TICK, and the ITRAM window, where a
channel that points outside the store reads 0. -/
def Obligations.WriteIsSeenByTheNextRead : Prop :=
  ∀ (s : State) (a : Int) (v : Word), s.Inv →
    ((0x100 ≤ a ∧ a ≤ 0x1FF) ∨ (0x300 ≤ a ∧ a ≤ 0x3FF) ∨ a = 0x5B → busValue a (busWrite a v s) = v) ∧
    (0x200 ≤ a ∧ a ≤ 0x27F → ∃ e, indirectAddr s.itramAddr s.tick (a - 0x200) = some e ∧
      busValue a (busWrite a v s) = if 0 ≤ e ∧ e < (Config.itramSize : Int) then v else 0#32)

/-- A delay line (70_reset_and_hazards R260): what is written at tick t through a channel whose address register
holds w is read at tick t + k through a channel whose register holds w - k, if that word was not written in
between; outside the store the read gives 0. -/
def Obligations.DelayLineAcrossTicks : Prop :=
  ∀ (s t : State) (cw cr : Nat) (hw : cw < 128) (hr : cr < 128) (k v : Word), s.Inv →
    t.tick = s.tick + k → t.itramAddr[cr] = s.itramAddr[cw] - k →
    ∀ e, indirectAddr s.itramAddr s.tick cw = some e →
      itramRead t.itram e = itramRead (busWrite (0x200 + (cw : Int)) v s).itram e →
      indirectAddr t.itramAddr t.tick cr = some e ∧
      busValue (0x200 + (cr : Int)) t = if 0 ≤ e ∧ e < (Config.itramSize : Int) then v else 0#32

/-- The Array bank (20_memory R52) and the Indirect bank's address (20_memory R54), at any size, index and
register contents. -/
def Obligations.ArrayAndIndirectBanks : Prop :=
  ∀ (n : Nat) (store : Vector Word n) (a : Int) (v tick : Word),
    (∀ h : 0 ≤ a ∧ a.toNat < n,
      arrayRead store a = store[a.toNat]'h.2 ∧ arrayWrite store a v = store.set a.toNat v h.2 ∧
      indirectAddr store tick a = some ((tick.toInt + (store[a.toNat]'h.2).toInt).bmod (2 ^ 32))) ∧
    (¬ (0 ≤ a ∧ a.toNat < n) →
      arrayRead store a = 0#32 ∧ arrayWrite store a v = store ∧ indirectAddr store tick a = none)

/-! ### The accumulator -/

/-- `AccWrite(v)` loads v exactly, with the guard clear and zero positive (40_execution R120). -/
def Obligations.AccWriteLoadsTheValue : Prop :=
  ∀ v : Int, v.natAbs ≤ 2 ^ 63 →
    (Accumulator.write v).value = v ∧ (Accumulator.write v).mag = v.natAbs ∧ (Accumulator.write v).guard = 0#3 ∧
      ((Accumulator.write v).s = true ↔ v < 0)

/-- `AccAdd(v)` on sign and magnitude (40_execution R121), a carry out of bit 66 dropped with the sign kept
(40_execution R122). -/
def Obligations.AccAddIsSignMagnitude : Prop :=
  ∀ (c : Accumulator) (v : Int), v.natAbs ≤ 2 ^ 63 →
    (decide (v < 0) = c.s → (c.add v).mag = (c.mag + v.natAbs) % 2 ^ 67 ∧ (c.add v).s = c.s) ∧
    (decide (v < 0) ≠ c.s → v.natAbs < c.mag → (c.add v).mag = c.mag - v.natAbs ∧ (c.add v).s = c.s) ∧
    (decide (v < 0) ≠ c.s → c.mag < v.natAbs → (c.add v).mag = v.natAbs - c.mag ∧ (c.add v).s = decide (v < 0)) ∧
    (decide (v < 0) ≠ c.s → c.mag = v.natAbs → (c.add v).mag = 0 ∧ (c.add v).s = false)

/-- The exactness laws of 40_execution R129: write then read; write, add, read; and a sequence of additions
whose partial sums stay below 2^67. -/
def Obligations.AccumulatorSumsAreExact : Prop :=
  (∀ v : DWord, (Accumulator.write v.toInt).read = v) ∧
  (∀ v1 v2 : DWord, (v1.toInt + v2.toInt).natAbs < 2 ^ 67 →
    ((Accumulator.write v1.toInt).add v2.toInt).value = v1.toInt + v2.toInt ∧
    (-2 ^ 63 ≤ v1.toInt + v2.toInt → v1.toInt + v2.toInt < 2 ^ 63 →
      ((Accumulator.write v1.toInt).add v2.toInt).read.toInt = v1.toInt + v2.toInt)) ∧
  (∀ (v0 : DWord) (vs : List DWord),
    (∀ n, (v0.toInt + ((vs.take n).map BitVec.toInt).sum).natAbs < 2 ^ 67) →
    ((vs.map BitVec.toInt).foldl Accumulator.add (Accumulator.write v0.toInt)).value =
      v0.toInt + (vs.map BitVec.toInt).sum)

/-- The read views (40_execution R123 to R126): the full wrapped view from the low limbs and the sign, the full
and low saturated views by their bounds, the low wrapped view as the low word of the full one. -/
def Obligations.AccumulatorReadViews : Prop :=
  ∀ c : Accumulator,
    c.read = (if c.s then -(c.hi ++ c.lo) else c.hi ++ c.lo) ∧
    c.read.toInt = c.value.bmod (2 ^ 64) ∧
    (c.s = false → 2 ^ 63 ≤ c.mag → c.readSat.toInt = 2 ^ 63 - 1) ∧
    (c.s = true → 2 ^ 63 ≤ c.mag → c.readSat.toInt = -2 ^ 63) ∧
    (c.mag < 2 ^ 63 → c.readSat.toInt = c.value) ∧
    c.readLowWrap = c.read.setWidth 32 ∧ c.readLowWrap.toInt = c.value.bmod (2 ^ 32) ∧
    (2 ^ 31 ≤ c.value → c.readLowSat.toInt = 2 ^ 31 - 1) ∧
    (c.value < -2 ^ 31 → c.readLowSat.toInt = -2 ^ 31) ∧
    (-2 ^ 31 ≤ c.value → c.value < 2 ^ 31 → c.readLowSat.toInt = c.value ∧ c.readLowSat = c.readLowWrap)

/-- With magnitude 0 every view reads 0, whatever the sign (40_execution R128). -/
def Obligations.TwoZerosReadAlike : Prop :=
  ∀ c : Accumulator, c.mag = 0 →
    c.read = 0#64 ∧ c.readSat = 0#64 ∧ c.readLowWrap = 0#32 ∧ c.readLowSat = 0#32 ∧
      c.readHiWrap = 0#32 ∧ c.readHiSat = 0#32

/-! ### The instruction cycle -/

/-- The operand fetch (40_execution R131), at every operand: A is the accumulator's wrapped 64-bit view, with no
access, or one bus read sign-extended; then X is read in the state A's access leaves, and Y in the state X's access
leaves. It changes nothing but the record of collaborator accesses, by three at most. A read of a core-owned address
changes nothing and returns what it would whatever the record holds, so accesses before it do not matter, and with
core-owned operands alone the fetch changes nothing at all; three collaborator reads are written out in the order A,
X, Y. What a collaborator's access leaves is in `TransferWindows` and `IoRegionsPassThrough`. The answer's form and the record are the model's (log 5, log 22). -/
def Obligations.OperandFetchIsOrderedAndPure : Prop :=
  (∀ (x y : Addr) (s : State),
    let s1 := busTouch (busAddr x) s
    fetch .acc x y s =
      (⟨BitVec.ofInt 64 s.acc.value, busValue (busAddr x) s, busValue (busAddr y) s1⟩, busTouch (busAddr y) s1)) ∧
  (∀ (a x y : Addr) (s : State),
    let s1 := busTouch (busAddr a) s
    let s2 := busTouch (busAddr x) s1
    fetch (.mem a) x y s =
      (⟨(busValue (busAddr a) s).signExtend 64, busValue (busAddr x) s1, busValue (busAddr y) s2⟩,
        busTouch (busAddr y) s2)) ∧
  (∀ (a : OperandA) (x y : Addr) (s : State),
    ∃ l : List Event, l.length ≤ 3 ∧ (fetch a x y s).2 = { s with events := l ++ s.events }) ∧
  (∀ (a : Int) (l : List Event) (s : State), coreOwned a →
    busTouch a s = s ∧ busValue a { s with events := l } = busValue a s) ∧
  (∀ (x y : Addr) (s : State), coreOwned (busAddr x) → coreOwned (busAddr y) →
    fetch .acc x y s =
      (⟨BitVec.ofInt 64 s.acc.value, busValue (busAddr x) s, busValue (busAddr y) s⟩, s)) ∧
  (∀ (a x y : Addr) (s : State), coreOwned (busAddr a) → coreOwned (busAddr x) → coreOwned (busAddr y) →
    fetch (.mem a) x y s =
      (⟨(busValue (busAddr a) s).signExtend 64, busValue (busAddr x) s, busValue (busAddr y) s⟩, s)) ∧
  (∀ (a x y : Addr) (s : State), a.toNat < 16 → x.toNat < 16 → y.toNat < 16 →
    let va := Config.answer s.draws s.events .fxIn a.toNat
    let e1 := Event.read .fxIn a.toNat va :: s.events
    let vx := Config.answer s.draws e1 .fxIn x.toNat
    let e2 := Event.read .fxIn x.toNat vx :: e1
    let vy := Config.answer s.draws e2 .fxIn y.toNat
    fetch (.mem a) x y s =
      (⟨va.signExtend 64, vx, vy⟩, { s with events := Event.read .fxIn y.toNat vy :: e2 }))

/-- The write-back (40_execution R134): no result, no write; R = 0x0056, no write, and the write would have
changed nothing; else one bus write. -/
def Obligations.WriteBackSkipsTheAccumulatorRegister : Prop :=
  ∀ (r : Addr) (v : Word) (s : State),
    writeBack r none s = s ∧ writeBack 0x0056#16 (some v) s = s ∧ busWrite 0x56 v s = s ∧
    (r ≠ 0x0056#16 → writeBack r (some v) s = busWrite (r.toNat : Int) v s)

/-- The frame of every instruction (40_execution R130 to R134, 10_state R20): what it leaves unchanged, the
location that R names apart. The accumulator is changed by no instruction but MACS, MACSN, MACW, MACWN,
MACINTS, MACINTW, ACC3, MACMV, ANDXOR and INTERP; SKIP and the unassigned opcode bytes change nothing but
the record of collaborator accesses. -/
def Obligations.InstructionFrame : Prop :=
  ∀ (i : Instr) (s t : State), exec i s = .next t →
    FrameOutside i.fields.r s t ∧
    (changesAccumulator i = false → t.acc = s.acc) ∧
    (writesResult i = false → ∃ l : List Event, t = { s with events := l ++ s.events }) ∧
    (i.fields.r = 0x0056#16 → ∃ l : List Event, t = { s with acc := t.acc, events := l ++ s.events })

/-! ### The instructions -/

/-- MACS (41_multiply_accumulate R150). -/
def Obligations.MacsAddsTheFractionalProductAndWraps : Prop :=
  ∀ (r : Addr) (a : OperandA) (x y : Addr) (s : State),
    let f := fetch a x y s
    let v := f.1.la.toInt + f.1.x.toInt * f.1.y.toInt / 2 ^ 31
    opcodeByte (.macs r a x y) = 0x00#8 ∧ (Accumulator.write v).value = v ∧
    exec (.macs r a x y) s = .next (writeBack r (some (BitVec.ofInt 32 v)) (f.2.setAcc (Accumulator.write v)))

/-- MACSN (41_multiply_accumulate R151): X is negated at full width before the multiply. -/
def Obligations.MacsnAddsTheNegatedProductAndWraps : Prop :=
  ∀ (r : Addr) (a : OperandA) (x y : Addr) (s : State),
    let f := fetch a x y s
    let v := f.1.la.toInt + -f.1.x.toInt * f.1.y.toInt / 2 ^ 31
    opcodeByte (.macsn r a x y) = 0x01#8 ∧ (Accumulator.write v).value = v ∧
    exec (.macsn r a x y) s = .next (writeBack r (some (BitVec.ofInt 32 v)) (f.2.setAcc (Accumulator.write v)))

/-- MACW (41_multiply_accumulate R152): the accumulator keeps the whole sum, R is clamped. -/
def Obligations.MacwAddsTheFractionalProductAndSaturates : Prop :=
  ∀ (r : Addr) (a : OperandA) (x y : Addr) (s : State),
    let f := fetch a x y s
    let v := f.1.la.toInt + f.1.x.toInt * f.1.y.toInt / 2 ^ 31
    opcodeByte (.macw r a x y) = 0x02#8 ∧ (Accumulator.write v).value = v ∧
    exec (.macw r a x y) s =
      .next (writeBack r (some (BitVec.ofInt 32 (max (-2 ^ 31) (min (2 ^ 31 - 1) v))))
        (f.2.setAcc (Accumulator.write v)))

/-- MACWN (41_multiply_accumulate R153). -/
def Obligations.MacwnAddsTheNegatedProductAndSaturates : Prop :=
  ∀ (r : Addr) (a : OperandA) (x y : Addr) (s : State),
    let f := fetch a x y s
    let v := f.1.la.toInt + -f.1.x.toInt * f.1.y.toInt / 2 ^ 31
    opcodeByte (.macwn r a x y) = 0x03#8 ∧ (Accumulator.write v).value = v ∧
    exec (.macwn r a x y) s =
      .next (writeBack r (some (BitVec.ofInt 32 (max (-2 ^ 31) (min (2 ^ 31 - 1) v))))
        (f.2.setAcc (Accumulator.write v)))

/-- MACINTS (41_multiply_accumulate R154). -/
def Obligations.MacintsAddsTheIntegerProductAndSaturates : Prop :=
  ∀ (r : Addr) (a : OperandA) (x y : Addr) (s : State),
    let f := fetch a x y s
    let v := f.1.la.toInt + f.1.x.toInt * f.1.y.toInt
    opcodeByte (.macints r a x y) = 0x04#8 ∧ (Accumulator.write v).value = v ∧
    exec (.macints r a x y) s =
      .next (writeBack r (some (BitVec.ofInt 32 (max (-2 ^ 31) (min (2 ^ 31 - 1) v))))
        (f.2.setAcc (Accumulator.write v)))

/-- MACINTW (41_multiply_accumulate R155): R is the value modulo 2^31, never negative. -/
def Obligations.MacintwAddsTheIntegerProductModulo31Bits : Prop :=
  ∀ (r : Addr) (a : OperandA) (x y : Addr) (s : State),
    let f := fetch a x y s
    let v := f.1.la.toInt + f.1.x.toInt * f.1.y.toInt
    opcodeByte (.macintw r a x y) = 0x05#8 ∧ (Accumulator.write v).value = v ∧
    0 ≤ (BitVec.ofInt 32 (v % 2 ^ 31)).toInt ∧
    exec (.macintw r a x y) s =
      .next (writeBack r (some (BitVec.ofInt 32 (v % 2 ^ 31))) (f.2.setAcc (Accumulator.write v)))

/-- ACC3 (41_multiply_accumulate R156): the sum of the three operands is exact in the accumulator. -/
def Obligations.Acc3AddsThreeOperandsAndSaturates : Prop :=
  ∀ (r : Addr) (a : OperandA) (x y : Addr) (s : State),
    let f := fetch a x y s
    let v := f.1.la.toInt + f.1.x.toInt + f.1.y.toInt
    opcodeByte (.acc3 r a x y) = 0x06#8 ∧ (Accumulator.write v).value = v ∧
    exec (.acc3 r a x y) s =
      .next (writeBack r (some (BitVec.ofInt 32 (max (-2 ^ 31) (min (2 ^ 31 - 1) v))))
        (f.2.setAcc (Accumulator.write v)))

/-- MACMV (41_multiply_accumulate R157): R takes A's low 32 bits, and the unshifted product joins the
accumulator, which A does not load; the sum is exact while its magnitude stays below 2^67. -/
def Obligations.MacmvMovesAAndAccumulatesTheProduct : Prop :=
  ∀ (r : Addr) (a : OperandA) (x y : Addr) (s : State),
    let f := fetch a x y s
    let p := f.1.x.toInt * f.1.y.toInt
    opcodeByte (.macmv r a x y) = 0x07#8 ∧
    exec (.macmv r a x y) s =
      .next (writeBack r (some (BitVec.ofInt 32 f.1.la.toInt)) (f.2.setAcc (s.acc.add p))) ∧
    ((s.acc.value + p).natAbs < 2 ^ 67 → (s.acc.add p).value = s.acc.value + p)

/-- ANDXOR (42_logic_compare R170): the result is written and loads the accumulator. -/
def Obligations.AndxorWritesAndLoadsTheBitwiseResult : Prop :=
  ∀ (r : Addr) (a : OperandA) (x y : Addr) (s : State),
    let f := fetch a x y s
    let v := (BitVec.ofInt 32 f.1.la.toInt &&& f.1.x) ^^^ f.1.y
    opcodeByte (.andxor r a x y) = 0x08#8 ∧ (Accumulator.write v.toInt).value = v.toInt ∧
    exec (.andxor r a x y) s = .next (writeBack r (some v) (f.2.setAcc (Accumulator.write v.toInt)))

/-- TESTNEG (42_logic_compare R171): a signed comparison at 64 bits; the negation wraps in 32 bits; the
accumulator is unchanged. -/
def Obligations.TestnegSelectsXOrItsNegation : Prop :=
  ∀ (r : Addr) (a : OperandA) (x y : Addr) (s : State),
    let f := fetch a x y s
    opcodeByte (.testneg r a x y) = 0x09#8 ∧
    exec (.testneg r a x y) s =
      .next (writeBack r (some (if f.1.y.toInt ≤ f.1.la.toInt then f.1.x else -f.1.x)) f.2)

/-- LIMIT (42_logic_compare R172, negate flag 0 by 30_encoding R107). -/
def Obligations.LimitSelectsXWhereAIsNotBelowY : Prop :=
  ∀ (r : Addr) (a : OperandA) (x y : Addr) (s : State),
    let f := fetch a x y s
    opcodeByte (.limit r a x y) = 0x0A#8 ∧ negateFlag ((opcodeByte (.limit r a x y)).extractLsb' 0 4) = false ∧
    exec (.limit r a x y) s =
      .next (writeBack r (some (if f.1.y.toInt ≤ f.1.la.toInt then f.1.x else f.1.y)) f.2)

/-- LIMITL (42_logic_compare R173, negate flag 1 by 30_encoding R107). -/
def Obligations.LimitlSelectsYWhereAIsNotBelowY : Prop :=
  ∀ (r : Addr) (a : OperandA) (x y : Addr) (s : State),
    let f := fetch a x y s
    opcodeByte (.limitl r a x y) = 0x0B#8 ∧ negateFlag ((opcodeByte (.limitl r a x y)).extractLsb' 0 4) = true ∧
    exec (.limitl r a x y) s =
      .next (writeBack r (some (if f.1.y.toInt ≤ f.1.la.toInt then f.1.y else f.1.x)) f.2)

/-- LOG (43_log_exp R180): R receives LOG_FN of A's low 32 bits, X and Y; nothing is assumed of LOG_FN. -/
def Obligations.LogWritesTheTransferFunctionsValue : Prop :=
  ∀ (r : Addr) (a : OperandA) (x y : Addr) (s : State),
    let f := fetch a x y s
    opcodeByte (.log r a x y) = 0x0C#8 ∧
    exec (.log r a x y) s = .next (writeBack r (some (logFn (BitVec.ofInt 32 f.1.la.toInt) f.1.x f.1.y)) f.2)

/-- EXP (43_log_exp R181): R receives EXP_FN of A's low 32 bits, X and Y. -/
def Obligations.ExpWritesTheTransferFunctionsValue : Prop :=
  ∀ (r : Addr) (a : OperandA) (x y : Addr) (s : State),
    let f := fetch a x y s
    opcodeByte (.exp r a x y) = 0x0D#8 ∧
    exec (.exp r a x y) s = .next (writeBack r (some (expFn (BitVec.ofInt 32 f.1.la.toInt) f.1.x f.1.y)) f.2)

/-- What every LOG_FN and EXP_FN must satisfy (43_log_exp R182), on the machine: for some positive value and some
X and Y, LOG of it into a GPR and then EXP of that GPR, with the same X and Y, gives the value back. -/
def Obligations.ExpUndoesLogAtSomePositiveValue : Prop :=
  ∃ v x y : Word, 0 < v.toInt ∧ expFn (logFn v x y) x y = v ∧
    ∀ s : State, s.gpr[1] = v → s.gpr[2] = x → s.gpr[3] = y →
      ∃ t u : State, exec (.log 0x0104#16 (.mem 0x0101#16) 0x0102#16 0x0103#16) s = .next t ∧
        exec (.exp 0x0105#16 (.mem 0x0104#16) 0x0102#16 0x0103#16) t = .next u ∧ u.gpr[5] = v

/-- The reference instance (43_log_exp R183 to R187; the spec's own design, which no instruction uses): for a
positive value m whose leading one is bit p, and every sign mode but 3, EXP after LOG gives m back exactly
when the code is in the exponent-0 range or bits p-1-F..0 of m are zero. -/
def Obligations.ReferenceRoundTripIsExactWhereNoBitIsLost : Prop :=
  ∀ m x y : Word, 0 < m.toInt → y.toNat % 4 ≠ 3 →
    (refExpFn (refLogFn m x y) x y = m ↔
      refMaxExp x ≤ refZeros m.toNat ∨ m.toNat % 2 ^ (bitlen m.toNat - 1 - refFracWidth x) = 0)

/-- The reference LOG on positive inputs under sign modes 0 and 1 is monotone (43_log_exp R187). -/
def Obligations.ReferenceLogIsMonotone : Prop :=
  ∀ m m' x y : Word, 0 ≤ m.toInt → m.toInt ≤ m'.toInt → y.toNat % 4 < 2 →
    (refLogFn m x y).toInt ≤ (refLogFn m' x y).toInt

/-- INTERP (44_interp_skip R200): the difference and the product wrap at 64 bits, the accumulator holds A plus
the product shifted right by 31, R is clamped; for a memory A both wraps are exact. -/
def Obligations.InterpBlendsFromATowardY : Prop :=
  ∀ (r : Addr) (a : OperandA) (x y : Addr) (s : State),
    let f := fetch a x y s
    let p := (f.1.x.toInt * (f.1.y.toInt - f.1.la.toInt).bmod (2 ^ 64)).bmod (2 ^ 64)
    let v := f.1.la.toInt + p / 2 ^ 31
    opcodeByte (.interp r a x y) = 0x0E#8 ∧ (Accumulator.write v).value = v ∧
    (∀ addr, a = .mem addr → p = f.1.x.toInt * (f.1.y.toInt - f.1.la.toInt)) ∧
    exec (.interp r a x y) s =
      .next (writeBack r (some (BitVec.ofInt 32 (max (-2 ^ 31) (min (2 ^ 31 - 1) v))))
        (f.2.setAcc (Accumulator.write v)))

/-- SKIP (44_interp_skip R201): the operands are fetched and nothing else happens; with core-owned operands all
state is unchanged. -/
def Obligations.SkipIsANoOp : Prop :=
  ∀ (r : Addr) (a : OperandA) (x y : Addr) (s : State),
    opcodeByte (.skip r a x y) = 0x0F#8 ∧ exec (.skip r a x y) s = .next (fetch a x y s).2 ∧
    (a = .acc ∨ (∃ b, a = .mem b ∧ coreOwned (busAddr b)) → coreOwned (busAddr x) → coreOwned (busAddr y) →
      exec (.skip r a x y) s = .next s)

/-- The unassigned opcode bytes (44_interp_skip R202), every one of the fifteen rows with every low nibble:
the operands are fetched and nothing else happens, as SKIP. -/
def Obligations.UnassignedOpcodesAreNoOps : Prop :=
  ∀ (low : BitVec 4) (r : Addr) (a : OperandA) (x y : Addr) (s : State),
    let n : Outcome := .next (fetch a x y s).2
    exec (.unassigned10 low r a x y) s = n ∧ exec (.unassigned20 low r a x y) s = n ∧
    exec (.unassigned30 low r a x y) s = n ∧ exec (.unassigned40 low r a x y) s = n ∧
    exec (.unassigned50 low r a x y) s = n ∧ exec (.unassigned60 low r a x y) s = n ∧
    exec (.unassigned70 low r a x y) s = n ∧ exec (.unassigned80 low r a x y) s = n ∧
    exec (.unassigned90 low r a x y) s = n ∧ exec (.unassignedA0 low r a x y) s = n ∧
    exec (.unassignedB0 low r a x y) s = n ∧ exec (.unassignedC0 low r a x y) s = n ∧
    exec (.unassignedD0 low r a x y) s = n ∧ exec (.unassignedE0 low r a x y) s = n ∧
    exec (.unassignedF0 low r a x y) s = n
end

