-- ==== Sys2Proof/Laws/Accum.lean ====
section
/-! SUPPORT. The accumulator's limbs as one magnitude, and what an addition can do. -/

namespace Sys2Proof.Machine

/-- A magnitude has 67 bits. -/
theorem Accumulator.mag_lt (c : Accumulator) : c.mag < 2 ^ 67 := by
  have h1 := c.guard.isLt
  have h2 := c.hi.isLt
  have h3 := c.lo.isLt
  unfold Accumulator.mag
  omega

@[simp] theorem Accumulator.ofMag_s (s : Bool) (m : Nat) : (Accumulator.ofMag s m).s = s := rfl

/-- The limbs of `m` hold `m` modulo 2^67. -/
@[simp] theorem Accumulator.ofMag_mag (s : Bool) (m : Nat) : (Accumulator.ofMag s m).mag = m % 2 ^ 67 := by
  simp only [Accumulator.mag, Accumulator.ofMag, BitVec.toNat_ofNat]
  omega

/-- An accumulator is its sign and its magnitude. -/
theorem Accumulator.ofMag_self (c : Accumulator) : Accumulator.ofMag c.s c.mag = c := by
  obtain ⟨s, lo, hi, guard⟩ := c
  have h1 := guard.isLt
  have h2 := hi.isLt
  have h3 := lo.isLt
  simp only [Accumulator.ofMag, Accumulator.mag, Accumulator.mk.injEq, true_and]
  refine ⟨?_, ?_, ?_⟩ <;> apply BitVec.eq_of_toNat_eq <;> simp only [BitVec.toNat_ofNat] <;> omega

/-- Equal signs and magnitudes make equal accumulators. -/
theorem Accumulator.ext_mag {c d : Accumulator} (hs : c.s = d.s) (hm : c.mag = d.mag) : c = d := by
  rw [← c.ofMag_self, ← d.ofMag_self, hs, hm]

/-- Everything an addition can do (40_execution R121). -/
theorem Accumulator.add_cases (c : Accumulator) (v : Int) :
    (decide (v < 0) = c.s ∧ c.add v = Accumulator.ofMag c.s (c.mag + v.natAbs)) ∨
    (decide (v < 0) ≠ c.s ∧ v.natAbs < c.mag ∧ c.add v = Accumulator.ofMag c.s (c.mag - v.natAbs)) ∨
    (decide (v < 0) ≠ c.s ∧ c.mag < v.natAbs ∧ c.add v = Accumulator.ofMag (decide (v < 0)) (v.natAbs - c.mag)) ∨
    (decide (v < 0) ≠ c.s ∧ c.mag = v.natAbs ∧ c.add v = Accumulator.ofMag false 0) := by
  unfold Accumulator.add
  by_cases h1 : decide (v < 0) = c.s
  · exact .inl ⟨h1, if_pos h1⟩
  · rw [if_neg h1]
    by_cases h2 : v.natAbs < c.mag
    · exact .inr (.inl ⟨h1, h2, if_pos h2⟩)
    · rw [if_neg h2]
      by_cases h3 : c.mag < v.natAbs
      · exact .inr (.inr (.inl ⟨h1, h3, if_pos h3⟩))
      · exact .inr (.inr (.inr ⟨h1, by omega, if_neg h3⟩))

end Sys2Proof.Machine
end

