-- ==== Sys2Proof/Laws/Arith.lean ====
section
/-! SUPPORT. The width primitives in the forms `omega` and the `BitVec` lemmas take. -/

namespace Sys2Proof.Machine

theorem asr_31 (v : Int) : asr v 31 = v / 2147483648 := rfl

/-- `wrap_32` discards high bits, which a 32-bit pattern does anyway. -/
@[simp] theorem word_wrap (v : Int) : word (wrap 32 v) = BitVec.ofInt 32 v := by
  apply BitVec.eq_of_toInt_eq
  simp only [word, BitVec.toInt_ofInt, wrap, sext, Int.bmod]
  norm_num
  split <;> omega

/-- `wrap_64` discards high bits, which a 64-bit pattern does anyway. -/
@[simp] theorem dword_wrap (v : Int) : dword (wrap 64 v) = BitVec.ofInt 64 v := by
  apply BitVec.eq_of_toInt_eq
  simp only [dword, BitVec.toInt_ofInt, wrap, sext, Int.bmod]
  norm_num
  split <;> omega

/-- `wrap_32` is the balanced residue. -/
theorem wrap_32_eq_bmod (v : Int) : wrap 32 v = v.bmod 4294967296 := by
  simp only [wrap, sext, Int.bmod]
  norm_num
  split <;> split <;> omega

/-- `wrap_64` is the balanced residue. -/
theorem wrap_64_eq_bmod (v : Int) : wrap 64 v = v.bmod 18446744073709551616 := by
  simp only [wrap, sext, Int.bmod]
  norm_num
  split <;> split <;> omega

end Sys2Proof.Machine
end

