-- ==== Sys2Proof/Laws/State.lean ====
section
/-! SUPPORT. What each update of the state does to each field. -/

namespace Sys2Proof.Machine

variable (s : State)

@[simp] theorem State.setGpr_gpr (g : Vector Word 256) : (s.setGpr g).gpr = g := rfl
@[simp] theorem State.setGpr_itramAddr (g : Vector Word 256) : (s.setGpr g).itramAddr = s.itramAddr := rfl
@[simp] theorem State.setGpr_xtramAddr (g : Vector Word 256) : (s.setGpr g).xtramAddr = s.xtramAddr := rfl
@[simp] theorem State.setGpr_itram (g : Vector Word 256) : (s.setGpr g).itram = s.itram := rfl
@[simp] theorem State.setGpr_acc (g : Vector Word 256) : (s.setGpr g).acc = s.acc := rfl
@[simp] theorem State.setGpr_tick (g : Vector Word 256) : (s.setGpr g).tick = s.tick := rfl
@[simp] theorem State.setGpr_noise0 (g : Vector Word 256) : (s.setGpr g).noise0 = s.noise0 := rfl
@[simp] theorem State.setGpr_noise1 (g : Vector Word 256) : (s.setGpr g).noise1 = s.noise1 := rfl
@[simp] theorem State.setGpr_program (g : Vector Word 256) : (s.setGpr g).program = s.program := rfl
@[simp] theorem State.setGpr_phase (g : Vector Word 256) : (s.setGpr g).phase = s.phase := rfl
@[simp] theorem State.setGpr_draws (g : Vector Word 256) : (s.setGpr g).draws = s.draws := rfl
@[simp] theorem State.setGpr_events (g : Vector Word 256) : (s.setGpr g).events = s.events := rfl
@[simp] theorem State.setGpr_replies (g : Vector Word 256) : (s.setGpr g).replies = s.replies := rfl
@[simp] theorem State.setGpr_host (g : Vector Word 256) : (s.setGpr g).host = s.host := rfl

@[simp] theorem State.setItramAddr_gpr (g : Vector Word 128) : (s.setItramAddr g).gpr = s.gpr := rfl
@[simp] theorem State.setItramAddr_itramAddr (g : Vector Word 128) : (s.setItramAddr g).itramAddr = g := rfl
@[simp] theorem State.setItramAddr_xtramAddr (g : Vector Word 128) : (s.setItramAddr g).xtramAddr = s.xtramAddr := rfl
@[simp] theorem State.setItramAddr_itram (g : Vector Word 128) : (s.setItramAddr g).itram = s.itram := rfl
@[simp] theorem State.setItramAddr_acc (g : Vector Word 128) : (s.setItramAddr g).acc = s.acc := rfl
@[simp] theorem State.setItramAddr_tick (g : Vector Word 128) : (s.setItramAddr g).tick = s.tick := rfl
@[simp] theorem State.setItramAddr_noise0 (g : Vector Word 128) : (s.setItramAddr g).noise0 = s.noise0 := rfl
@[simp] theorem State.setItramAddr_noise1 (g : Vector Word 128) : (s.setItramAddr g).noise1 = s.noise1 := rfl
@[simp] theorem State.setItramAddr_program (g : Vector Word 128) : (s.setItramAddr g).program = s.program := rfl
@[simp] theorem State.setItramAddr_phase (g : Vector Word 128) : (s.setItramAddr g).phase = s.phase := rfl
@[simp] theorem State.setItramAddr_draws (g : Vector Word 128) : (s.setItramAddr g).draws = s.draws := rfl
@[simp] theorem State.setItramAddr_events (g : Vector Word 128) : (s.setItramAddr g).events = s.events := rfl
@[simp] theorem State.setItramAddr_replies (g : Vector Word 128) : (s.setItramAddr g).replies = s.replies := rfl
@[simp] theorem State.setItramAddr_host (g : Vector Word 128) : (s.setItramAddr g).host = s.host := rfl

@[simp] theorem State.setXtramAddr_gpr (g : Vector Word 128) : (s.setXtramAddr g).gpr = s.gpr := rfl
@[simp] theorem State.setXtramAddr_itramAddr (g : Vector Word 128) : (s.setXtramAddr g).itramAddr = s.itramAddr := rfl
@[simp] theorem State.setXtramAddr_xtramAddr (g : Vector Word 128) : (s.setXtramAddr g).xtramAddr = g := rfl
@[simp] theorem State.setXtramAddr_itram (g : Vector Word 128) : (s.setXtramAddr g).itram = s.itram := rfl
@[simp] theorem State.setXtramAddr_acc (g : Vector Word 128) : (s.setXtramAddr g).acc = s.acc := rfl
@[simp] theorem State.setXtramAddr_tick (g : Vector Word 128) : (s.setXtramAddr g).tick = s.tick := rfl
@[simp] theorem State.setXtramAddr_noise0 (g : Vector Word 128) : (s.setXtramAddr g).noise0 = s.noise0 := rfl
@[simp] theorem State.setXtramAddr_noise1 (g : Vector Word 128) : (s.setXtramAddr g).noise1 = s.noise1 := rfl
@[simp] theorem State.setXtramAddr_program (g : Vector Word 128) : (s.setXtramAddr g).program = s.program := rfl
@[simp] theorem State.setXtramAddr_phase (g : Vector Word 128) : (s.setXtramAddr g).phase = s.phase := rfl
@[simp] theorem State.setXtramAddr_draws (g : Vector Word 128) : (s.setXtramAddr g).draws = s.draws := rfl
@[simp] theorem State.setXtramAddr_events (g : Vector Word 128) : (s.setXtramAddr g).events = s.events := rfl
@[simp] theorem State.setXtramAddr_replies (g : Vector Word 128) : (s.setXtramAddr g).replies = s.replies := rfl
@[simp] theorem State.setXtramAddr_host (g : Vector Word 128) : (s.setXtramAddr g).host = s.host := rfl

@[simp] theorem State.setItram_gpr (m : Memory) : (s.setItram m).gpr = s.gpr := rfl
@[simp] theorem State.setItram_itramAddr (m : Memory) : (s.setItram m).itramAddr = s.itramAddr := rfl
@[simp] theorem State.setItram_xtramAddr (m : Memory) : (s.setItram m).xtramAddr = s.xtramAddr := rfl
@[simp] theorem State.setItram_itram (m : Memory) : (s.setItram m).itram = m := rfl
@[simp] theorem State.setItram_acc (m : Memory) : (s.setItram m).acc = s.acc := rfl
@[simp] theorem State.setItram_tick (m : Memory) : (s.setItram m).tick = s.tick := rfl
@[simp] theorem State.setItram_noise0 (m : Memory) : (s.setItram m).noise0 = s.noise0 := rfl
@[simp] theorem State.setItram_noise1 (m : Memory) : (s.setItram m).noise1 = s.noise1 := rfl
@[simp] theorem State.setItram_program (m : Memory) : (s.setItram m).program = s.program := rfl
@[simp] theorem State.setItram_phase (m : Memory) : (s.setItram m).phase = s.phase := rfl
@[simp] theorem State.setItram_draws (m : Memory) : (s.setItram m).draws = s.draws := rfl
@[simp] theorem State.setItram_events (m : Memory) : (s.setItram m).events = s.events := rfl
@[simp] theorem State.setItram_replies (m : Memory) : (s.setItram m).replies = s.replies := rfl
@[simp] theorem State.setItram_host (m : Memory) : (s.setItram m).host = s.host := rfl

@[simp] theorem State.setAcc_gpr (c : Accumulator) : (s.setAcc c).gpr = s.gpr := rfl
@[simp] theorem State.setAcc_itramAddr (c : Accumulator) : (s.setAcc c).itramAddr = s.itramAddr := rfl
@[simp] theorem State.setAcc_xtramAddr (c : Accumulator) : (s.setAcc c).xtramAddr = s.xtramAddr := rfl
@[simp] theorem State.setAcc_itram (c : Accumulator) : (s.setAcc c).itram = s.itram := rfl
@[simp] theorem State.setAcc_acc (c : Accumulator) : (s.setAcc c).acc = c := rfl
@[simp] theorem State.setAcc_tick (c : Accumulator) : (s.setAcc c).tick = s.tick := rfl
@[simp] theorem State.setAcc_noise0 (c : Accumulator) : (s.setAcc c).noise0 = s.noise0 := rfl
@[simp] theorem State.setAcc_noise1 (c : Accumulator) : (s.setAcc c).noise1 = s.noise1 := rfl
@[simp] theorem State.setAcc_program (c : Accumulator) : (s.setAcc c).program = s.program := rfl
@[simp] theorem State.setAcc_phase (c : Accumulator) : (s.setAcc c).phase = s.phase := rfl
@[simp] theorem State.setAcc_draws (c : Accumulator) : (s.setAcc c).draws = s.draws := rfl
@[simp] theorem State.setAcc_events (c : Accumulator) : (s.setAcc c).events = s.events := rfl
@[simp] theorem State.setAcc_replies (c : Accumulator) : (s.setAcc c).replies = s.replies := rfl
@[simp] theorem State.setAcc_host (c : Accumulator) : (s.setAcc c).host = s.host := rfl

@[simp] theorem State.setTick_gpr (v : Word) : (s.setTick v).gpr = s.gpr := rfl
@[simp] theorem State.setTick_itramAddr (v : Word) : (s.setTick v).itramAddr = s.itramAddr := rfl
@[simp] theorem State.setTick_xtramAddr (v : Word) : (s.setTick v).xtramAddr = s.xtramAddr := rfl
@[simp] theorem State.setTick_itram (v : Word) : (s.setTick v).itram = s.itram := rfl
@[simp] theorem State.setTick_acc (v : Word) : (s.setTick v).acc = s.acc := rfl
@[simp] theorem State.setTick_tick (v : Word) : (s.setTick v).tick = v := rfl
@[simp] theorem State.setTick_noise0 (v : Word) : (s.setTick v).noise0 = s.noise0 := rfl
@[simp] theorem State.setTick_noise1 (v : Word) : (s.setTick v).noise1 = s.noise1 := rfl
@[simp] theorem State.setTick_program (v : Word) : (s.setTick v).program = s.program := rfl
@[simp] theorem State.setTick_phase (v : Word) : (s.setTick v).phase = s.phase := rfl
@[simp] theorem State.setTick_draws (v : Word) : (s.setTick v).draws = s.draws := rfl
@[simp] theorem State.setTick_events (v : Word) : (s.setTick v).events = s.events := rfl
@[simp] theorem State.setTick_replies (v : Word) : (s.setTick v).replies = s.replies := rfl
@[simp] theorem State.setTick_host (v : Word) : (s.setTick v).host = s.host := rfl

@[simp] theorem State.setPhase_gpr (p : Phase) : (s.setPhase p).gpr = s.gpr := rfl
@[simp] theorem State.setPhase_itramAddr (p : Phase) : (s.setPhase p).itramAddr = s.itramAddr := rfl
@[simp] theorem State.setPhase_xtramAddr (p : Phase) : (s.setPhase p).xtramAddr = s.xtramAddr := rfl
@[simp] theorem State.setPhase_itram (p : Phase) : (s.setPhase p).itram = s.itram := rfl
@[simp] theorem State.setPhase_acc (p : Phase) : (s.setPhase p).acc = s.acc := rfl
@[simp] theorem State.setPhase_tick (p : Phase) : (s.setPhase p).tick = s.tick := rfl
@[simp] theorem State.setPhase_noise0 (p : Phase) : (s.setPhase p).noise0 = s.noise0 := rfl
@[simp] theorem State.setPhase_noise1 (p : Phase) : (s.setPhase p).noise1 = s.noise1 := rfl
@[simp] theorem State.setPhase_program (p : Phase) : (s.setPhase p).program = s.program := rfl
@[simp] theorem State.setPhase_phase (p : Phase) : (s.setPhase p).phase = p := rfl
@[simp] theorem State.setPhase_draws (p : Phase) : (s.setPhase p).draws = s.draws := rfl
@[simp] theorem State.setPhase_events (p : Phase) : (s.setPhase p).events = s.events := rfl
@[simp] theorem State.setPhase_replies (p : Phase) : (s.setPhase p).replies = s.replies := rfl
@[simp] theorem State.setPhase_host (p : Phase) : (s.setPhase p).host = s.host := rfl

@[simp] theorem State.setProgram_gpr (p : Program) : (s.setProgram p).gpr = s.gpr := rfl
@[simp] theorem State.setProgram_itramAddr (p : Program) : (s.setProgram p).itramAddr = s.itramAddr := rfl
@[simp] theorem State.setProgram_xtramAddr (p : Program) : (s.setProgram p).xtramAddr = s.xtramAddr := rfl
@[simp] theorem State.setProgram_itram (p : Program) : (s.setProgram p).itram = s.itram := rfl
@[simp] theorem State.setProgram_acc (p : Program) : (s.setProgram p).acc = s.acc := rfl
@[simp] theorem State.setProgram_tick (p : Program) : (s.setProgram p).tick = s.tick := rfl
@[simp] theorem State.setProgram_noise0 (p : Program) : (s.setProgram p).noise0 = s.noise0 := rfl
@[simp] theorem State.setProgram_noise1 (p : Program) : (s.setProgram p).noise1 = s.noise1 := rfl
@[simp] theorem State.setProgram_program (p : Program) : (s.setProgram p).program = p := rfl
@[simp] theorem State.setProgram_phase (p : Program) : (s.setProgram p).phase = s.phase := rfl
@[simp] theorem State.setProgram_draws (p : Program) : (s.setProgram p).draws = s.draws := rfl
@[simp] theorem State.setProgram_events (p : Program) : (s.setProgram p).events = s.events := rfl
@[simp] theorem State.setProgram_replies (p : Program) : (s.setProgram p).replies = s.replies := rfl
@[simp] theorem State.setProgram_host (p : Program) : (s.setProgram p).host = s.host := rfl

@[simp] theorem State.setHost_gpr (h : List HostCall) : (s.setHost h).gpr = s.gpr := rfl
@[simp] theorem State.setHost_itramAddr (h : List HostCall) : (s.setHost h).itramAddr = s.itramAddr := rfl
@[simp] theorem State.setHost_xtramAddr (h : List HostCall) : (s.setHost h).xtramAddr = s.xtramAddr := rfl
@[simp] theorem State.setHost_itram (h : List HostCall) : (s.setHost h).itram = s.itram := rfl
@[simp] theorem State.setHost_acc (h : List HostCall) : (s.setHost h).acc = s.acc := rfl
@[simp] theorem State.setHost_tick (h : List HostCall) : (s.setHost h).tick = s.tick := rfl
@[simp] theorem State.setHost_noise0 (h : List HostCall) : (s.setHost h).noise0 = s.noise0 := rfl
@[simp] theorem State.setHost_noise1 (h : List HostCall) : (s.setHost h).noise1 = s.noise1 := rfl
@[simp] theorem State.setHost_program (h : List HostCall) : (s.setHost h).program = s.program := rfl
@[simp] theorem State.setHost_phase (h : List HostCall) : (s.setHost h).phase = s.phase := rfl
@[simp] theorem State.setHost_draws (h : List HostCall) : (s.setHost h).draws = s.draws := rfl
@[simp] theorem State.setHost_events (h : List HostCall) : (s.setHost h).events = s.events := rfl
@[simp] theorem State.setHost_replies (h : List HostCall) : (s.setHost h).replies = s.replies := rfl
@[simp] theorem State.setHost_host (h : List HostCall) : (s.setHost h).host = h := rfl

@[simp] theorem State.logEvent_gpr (e : Event) : (s.logEvent e).gpr = s.gpr := rfl
@[simp] theorem State.logEvent_itramAddr (e : Event) : (s.logEvent e).itramAddr = s.itramAddr := rfl
@[simp] theorem State.logEvent_xtramAddr (e : Event) : (s.logEvent e).xtramAddr = s.xtramAddr := rfl
@[simp] theorem State.logEvent_itram (e : Event) : (s.logEvent e).itram = s.itram := rfl
@[simp] theorem State.logEvent_acc (e : Event) : (s.logEvent e).acc = s.acc := rfl
@[simp] theorem State.logEvent_tick (e : Event) : (s.logEvent e).tick = s.tick := rfl
@[simp] theorem State.logEvent_noise0 (e : Event) : (s.logEvent e).noise0 = s.noise0 := rfl
@[simp] theorem State.logEvent_noise1 (e : Event) : (s.logEvent e).noise1 = s.noise1 := rfl
@[simp] theorem State.logEvent_program (e : Event) : (s.logEvent e).program = s.program := rfl
@[simp] theorem State.logEvent_phase (e : Event) : (s.logEvent e).phase = s.phase := rfl
@[simp] theorem State.logEvent_draws (e : Event) : (s.logEvent e).draws = s.draws := rfl
@[simp] theorem State.logEvent_events (e : Event) : (s.logEvent e).events = e :: s.events := rfl
@[simp] theorem State.logEvent_replies (e : Event) : (s.logEvent e).replies = s.replies := rfl
@[simp] theorem State.logEvent_host (e : Event) : (s.logEvent e).host = s.host := rfl

@[simp] theorem State.logReply_gpr (r : Reply) : (s.logReply r).gpr = s.gpr := rfl
@[simp] theorem State.logReply_itramAddr (r : Reply) : (s.logReply r).itramAddr = s.itramAddr := rfl
@[simp] theorem State.logReply_xtramAddr (r : Reply) : (s.logReply r).xtramAddr = s.xtramAddr := rfl
@[simp] theorem State.logReply_itram (r : Reply) : (s.logReply r).itram = s.itram := rfl
@[simp] theorem State.logReply_acc (r : Reply) : (s.logReply r).acc = s.acc := rfl
@[simp] theorem State.logReply_tick (r : Reply) : (s.logReply r).tick = s.tick := rfl
@[simp] theorem State.logReply_noise0 (r : Reply) : (s.logReply r).noise0 = s.noise0 := rfl
@[simp] theorem State.logReply_noise1 (r : Reply) : (s.logReply r).noise1 = s.noise1 := rfl
@[simp] theorem State.logReply_program (r : Reply) : (s.logReply r).program = s.program := rfl
@[simp] theorem State.logReply_phase (r : Reply) : (s.logReply r).phase = s.phase := rfl
@[simp] theorem State.logReply_draws (r : Reply) : (s.logReply r).draws = s.draws := rfl
@[simp] theorem State.logReply_events (r : Reply) : (s.logReply r).events = s.events := rfl
@[simp] theorem State.logReply_replies (r : Reply) : (s.logReply r).replies = r :: s.replies := rfl
@[simp] theorem State.logReply_host (r : Reply) : (s.logReply r).host = s.host := rfl

/-- Putting back the accumulator a state already has changes nothing. -/
@[simp] theorem State.setAcc_self : s.setAcc s.acc = s := rfl

end Sys2Proof.Machine
end

