-- ==== Sys2Proof/Laws/Bus.lean ====
section
/-! SUPPORT. What a bus access, a fetch, a write-back and an instruction cycle can do to the state. -/

namespace Sys2Proof.Machine

/-- A read leaves the state as it was, or records one access of a collaborator. -/
theorem busTouch_cases (a : Int) (s : State) :
    busTouch a s = s ∨ ∃ p i v, busTouch a s = s.logEvent (.read p i v) := by
  unfold busTouch leafTouch
  split
  · exact .inr ⟨_, _, _, rfl⟩
  · exact .inl rfl
  · exact .inl rfl
  · exact .inl rfl
  · split
    · exact .inr ⟨_, _, _, rfl⟩
    · exact .inl rfl
  · exact .inl rfl
  · exact .inl rfl
  · exact .inl rfl

/-- The state with some accesses of collaborators recorded, newest first. -/
def State.withEvents (s : State) (l : List Event) : State := { s with events := l ++ s.events }

/-- A read adds at most one record. -/
theorem busTouch_events (a : Int) (s : State) : ∃ l, busTouch a s = s.withEvents l := by
  obtain h | ⟨p, i, v, h⟩ := busTouch_cases a s
  · exact ⟨[], h⟩
  · exact ⟨[.read p i v], h⟩

theorem touchA_events (a : OperandA) (s : State) : ∃ l, touchA a s = s.withEvents l := by
  cases a with
  | acc => exact ⟨[], rfl⟩
  | mem addr => exact busTouch_events _ _

/-- A fetch changes nothing but the record of accesses. -/
theorem fetch_events (a : OperandA) (x y : Addr) (s : State) : ∃ l, (fetch a x y s).2 = s.withEvents l := by
  obtain ⟨l1, h1⟩ := touchA_events a s
  obtain ⟨l2, h2⟩ := busTouch_events (busAddr x) (touchA a s)
  obtain ⟨l3, h3⟩ := busTouch_events (busAddr y) (busTouch (busAddr x) (touchA a s))
  refine ⟨l3 ++ (l2 ++ l1), ?_⟩
  show busTouch (busAddr y) (busTouch (busAddr x) (touchA a s)) = _
  rw [h3, h2, h1]
  simp [State.withEvents]

/-- Everything a bus write can do. -/
theorem busWrite_cases (a : Int) (v : Word) (s : State) :
    busWrite a v s = s ∨
    (∃ p i, busWrite a v s = s.logEvent (.write p i v)) ∨
    (busMap a = (.sys, sysTick) ∧ busWrite a v s = s.setTick v) ∨
    (∃ i, busMap a = (.gpr, i) ∧ busWrite a v s = s.setGpr (arrayWrite s.gpr i v)) ∨
    (∃ i, busMap a = (.itramAddr, i) ∧ busWrite a v s = s.setItramAddr (arrayWrite s.itramAddr i v)) ∨
    (∃ i, busMap a = (.xtramAddr, i) ∧ busWrite a v s = s.setXtramAddr (arrayWrite s.xtramAddr i v)) ∨
    (∃ i e, busMap a = (.itramWindow, i) ∧ indirectAddr s.itramAddr s.tick i = some e ∧
      busWrite a v s = s.setItram (itramWrite s.itram e v)) := by
  unfold busWrite
  rcases busMap a with ⟨l, i⟩
  cases l with
  | port p => exact .inr (.inl ⟨p, i, rfl⟩)
  | sys =>
    by_cases h : i = sysTick
    · exact .inr (.inr (.inl ⟨by rw [h], by simp [leafWrite, sysWrite, h]⟩))
    · exact .inl (by simp [leafWrite, sysWrite, h])
  | gpr => exact .inr (.inr (.inr (.inl ⟨i, rfl, rfl⟩)))
  | itramWindow =>
    cases h : indirectAddr s.itramAddr s.tick i with
    | none => exact .inl (by simp [leafWrite, h])
    | some e => exact .inr (.inr (.inr (.inr (.inr (.inr ⟨i, e, rfl, h, by simp [leafWrite, h]⟩)))))
  | xtramWindow =>
    cases h : indirectAddr s.xtramAddr s.tick i with
    | none => exact .inl (by simp [leafWrite, h])
    | some e => exact .inr (.inl ⟨.xtram, e, by simp [leafWrite, h]⟩)
  | itramAddr => exact .inr (.inr (.inr (.inr (.inl ⟨i, rfl, rfl⟩))))
  | xtramAddr => exact .inr (.inr (.inr (.inr (.inr (.inl ⟨i, rfl, rfl⟩)))))
  | empty => exact .inl rfl

/-- Everything a write-back can do. -/
theorem writeBack_cases (r : Addr) (res : Option Word) (s : State) :
    writeBack r res s = s ∨ ∃ v, res = some v ∧ writeBack r res s = busWrite (busAddr r) v s := by
  cases res with
  | none => exact .inl rfl
  | some v =>
    by_cases h : r = accumAddr
    · exact .inl (by simp [writeBack, h])
    · exact .inr ⟨v, rfl, by simp [writeBack, h]⟩

/-- An instruction cycle answers a next state: the fetch, the rule's accumulator, the write-back. -/
theorem cycle_next (rule : OpcodeRule) (r : Addr) (a : OperandA) (x y : Addr) (s : State) :
    cycle rule r a x y s =
      .next (writeBack r (rule (fetch a x y s).1 (fetch a x y s).2.acc).2
        ((fetch a x y s).2.setAcc (rule (fetch a x y s).1 (fetch a x y s).2.acc).1)) := rfl

end Sys2Proof.Machine
end

