-- ==== Sys2Proof/Laws/Exec.lean ====
section
/-! SUPPORT. Every instruction is the shared cycle over its own opcode rule; a step, phase by phase. -/

namespace Sys2Proof.Machine

variable (s : State)

@[simp] theorem State.drawNoise_gpr : (s.drawNoise).gpr = s.gpr := rfl
@[simp] theorem State.drawNoise_itramAddr : (s.drawNoise).itramAddr = s.itramAddr := rfl
@[simp] theorem State.drawNoise_xtramAddr : (s.drawNoise).xtramAddr = s.xtramAddr := rfl
@[simp] theorem State.drawNoise_itram : (s.drawNoise).itram = s.itram := rfl
@[simp] theorem State.drawNoise_acc : (s.drawNoise).acc = s.acc := rfl
@[simp] theorem State.drawNoise_tick : (s.drawNoise).tick = s.tick := rfl
@[simp] theorem State.drawNoise_noise0 : (s.drawNoise).noise0 = Config.noise s.draws .n0 := rfl
@[simp] theorem State.drawNoise_noise1 : (s.drawNoise).noise1 = Config.noise s.draws .n1 := rfl
@[simp] theorem State.drawNoise_program : (s.drawNoise).program = s.program := rfl
@[simp] theorem State.drawNoise_phase : (s.drawNoise).phase = s.phase := rfl
@[simp] theorem State.drawNoise_draws : (s.drawNoise).draws = s.draws + 1 := rfl
@[simp] theorem State.drawNoise_events : (s.drawNoise).events = s.events := rfl
@[simp] theorem State.drawNoise_replies : (s.drawNoise).replies = s.replies := rfl
@[simp] theorem State.drawNoise_host : (s.drawNoise).host = s.host := rfl

/-- The opcode rule of each instruction. -/
def ruleOf : Instr → OpcodeRule
  | .macs _ _ _ _ => loadAdd Accumulator.readLowWrap fracProduct
  | .macsn _ _ _ _ => loadAdd Accumulator.readLowWrap fracProductNeg
  | .macw _ _ _ _ => loadAdd Accumulator.readLowSat fracProduct
  | .macwn _ _ _ _ => loadAdd Accumulator.readLowSat fracProductNeg
  | .macints _ _ _ _ => loadAdd Accumulator.readLowSat intProduct
  | .macintw _ _ _ _ => loadAdd low31 intProduct
  | .acc3 _ _ _ _ => acc3Rule
  | .macmv _ _ _ _ => macmvRule
  | .andxor _ _ _ _ => andxorRule
  | .testneg _ _ _ _ => testnegRule
  | .limit _ _ _ _ => limitRule (negateFlag 0xA#4)
  | .limitl _ _ _ _ => limitRule (negateFlag 0xB#4)
  | .log _ _ _ _ => transferRule logFn
  | .exp _ _ _ _ => transferRule expFn
  | .interp _ _ _ _ => interpRule
  | .skip _ _ _ _ => noOpRule
  | .unassigned10 _ _ _ _ _ => noOpRule
  | .unassigned20 _ _ _ _ _ => noOpRule
  | .unassigned30 _ _ _ _ _ => noOpRule
  | .unassigned40 _ _ _ _ _ => noOpRule
  | .unassigned50 _ _ _ _ _ => noOpRule
  | .unassigned60 _ _ _ _ _ => noOpRule
  | .unassigned70 _ _ _ _ _ => noOpRule
  | .unassigned80 _ _ _ _ _ => noOpRule
  | .unassigned90 _ _ _ _ _ => noOpRule
  | .unassignedA0 _ _ _ _ _ => noOpRule
  | .unassignedB0 _ _ _ _ _ => noOpRule
  | .unassignedC0 _ _ _ _ _ => noOpRule
  | .unassignedD0 _ _ _ _ _ => noOpRule
  | .unassignedE0 _ _ _ _ _ => noOpRule
  | .unassignedF0 _ _ _ _ _ => noOpRule

/-- An instruction's meaning is the shared cycle with its rule and its operands. -/
theorem exec_eq_cycle (i : Instr) (s : State) :
    exec i s = cycle (ruleOf i) i.fields.r i.fields.a i.fields.x i.fields.y s := by
  cases i <;> rfl

theorem step_idle {s : State} (h : s.phase = .idle) : step s = betweenTicks s := by simp [step, h]

theorem step_running {s : State} {ip : Nat} (h : s.phase = .running ip) : step s = duringTick ip s := by
  simp [step, h]

end Sys2Proof.Machine
end

