-- ==== Sys2Proof/Laws/Memory.lean ====
section
/-! SUPPORT. The store's contents: a write is read back, leaves other addresses alone and keeps the canonical form. -/

namespace Sys2Proof.Machine

theorem memRises_mono {lo lo' : Nat} (h : lo ≤ lo') : ∀ {m : Memory}, memRises lo' m = true → memRises lo m = true
  | [], _ => rfl
  | (k, v) :: rest, hm => by
    simp only [memRises, Bool.and_eq_true, decide_eq_true_eq] at hm ⊢
    exact ⟨⟨by omega, hm.1.2⟩, hm.2⟩

theorem memRises_wf {lo : Nat} : ∀ {m : Memory}, memRises lo m = true → Memory.wf m = true
  | [], _ => rfl
  | (k, v) :: rest, hm => by
    simp only [memRises, Memory.wf, Bool.and_eq_true, decide_eq_true_eq] at hm ⊢
    exact ⟨hm.1.2, hm.2⟩

/-- Below the first listed address every word reads 0. -/
theorem memRead_of_rises {lo a : Nat} (h : a ≤ lo) : ∀ {m : Memory}, memRises lo m = true → memRead m a = 0#32
  | [], _ => rfl
  | (k, v) :: rest, hm => by
    simp only [memRises, Bool.and_eq_true, decide_eq_true_eq] at hm
    have hk : k ≠ a := by omega
    simp only [memRead, hk, if_false]
    exact memRead_of_rises (by omega) hm.2

theorem memRead_memEntry_other {a b : Nat} (h : b ≠ a) (v : Word) (rest : Memory) :
    memRead (memEntry a v rest) b = memRead rest b := by
  unfold memEntry
  split
  · rfl
  · simp [memRead, h.symm]

/-- A write leaves every other address as it was, in any list. -/
theorem memRead_memWrite_other {a b : Nat} (h : b ≠ a) (v : Word) :
    ∀ m : Memory, memRead (memWrite m a v) b = memRead m b
  | [] => by simp [memWrite, memRead_memEntry_other h]
  | (k, u) :: rest => by
    unfold memWrite
    split
    · rw [memRead_memEntry_other h]
    · split
      · next hk => rw [memRead_memEntry_other h]; subst hk; simp [memRead, h.symm]
      · simp only [memRead, memRead_memWrite_other h v rest]

theorem memRead_memEntry_same {a : Nat} {v : Word} {rest : Memory} (h : memRead rest a = 0#32) :
    memRead (memEntry a v rest) a = v := by
  unfold memEntry
  split
  · next hv => rw [h, hv]
  · simp [memRead]

/-- A write to a store in canonical form is read back. -/
theorem memRead_memWrite_rises {lo a : Nat} (v : Word) :
    ∀ {m : Memory}, memRises lo m = true → memRead (memWrite m a v) a = v
  | [], _ => memRead_memEntry_same (by rfl)
  | (k, u) :: rest, hm => by
    simp only [memRises, Bool.and_eq_true, decide_eq_true_eq] at hm
    unfold memWrite
    split
    · refine memRead_memEntry_same ?_
      have hk : k ≠ a := by omega
      simp only [memRead, hk, if_false]
      exact memRead_of_rises (by omega) hm.2
    · split
      · next hk => exact memRead_memEntry_same (memRead_of_rises (by omega) hm.2)
      · next h1 h2 =>
        have hk : k ≠ a := fun h => h2 h.symm
        simp only [memRead, hk, if_false]
        exact memRead_memWrite_rises v hm.2

theorem memRead_memWrite_same {a : Nat} (v : Word) : ∀ {m : Memory}, Memory.wf m = true → memRead (memWrite m a v) a = v
  | [], _ => memRead_memEntry_same (by rfl)
  | (k, u) :: rest, hm => by
    simp only [Memory.wf, Bool.and_eq_true] at hm
    unfold memWrite
    split
    · refine memRead_memEntry_same ?_
      have hk : k ≠ a := by omega
      simp only [memRead, hk, if_false]
      exact memRead_of_rises (by omega) hm.2
    · split
      · next hk => exact memRead_memEntry_same (memRead_of_rises (by omega) hm.2)
      · next h1 h2 =>
        have hk : k ≠ a := fun h => h2 h.symm
        simp only [memRead, hk, if_false]
        exact memRead_memWrite_rises v hm.2

theorem memEntry_rises {lo a : Nat} (h : lo < a) (v : Word) {rest : Memory} (hr : memRises a rest = true) :
    memRises lo (memEntry a v rest) = true := by
  unfold memEntry
  split
  · exact memRises_mono (by omega) hr
  · next hv => simp [memRises, h, hv, hr]

theorem memWrite_rises {lo a : Nat} (h : lo < a) (v : Word) :
    ∀ {m : Memory}, memRises lo m = true → memRises lo (memWrite m a v) = true
  | [], _ => memEntry_rises h v rfl
  | (k, u) :: rest, hm => by
    simp only [memRises, Bool.and_eq_true, decide_eq_true_eq] at hm
    unfold memWrite
    split
    · exact memEntry_rises h v (by simp_all [memRises])
    · split
      · next hk => exact memEntry_rises h v (by subst hk; exact hm.2)
      · have := memWrite_rises (a := a) (by omega : k < a) v hm.2
        simp_all [memRises]

theorem memEntry_wf {a : Nat} (v : Word) {rest : Memory} (hr : memRises a rest = true) :
    Memory.wf (memEntry a v rest) = true := by
  unfold memEntry
  split
  · exact memRises_wf hr
  · next hv => simp [Memory.wf, hv, hr]

/-- A write keeps the canonical form. -/
theorem memWrite_wf {a : Nat} (v : Word) : ∀ {m : Memory}, Memory.wf m = true → Memory.wf (memWrite m a v) = true
  | [], _ => memEntry_wf v rfl
  | (k, u) :: rest, hm => by
    simp only [Memory.wf, Bool.and_eq_true] at hm
    unfold memWrite
    split
    · exact memEntry_wf v (by simp_all [memRises])
    · split
      · next hk => exact memEntry_wf v (by subst hk; exact hm.2)
      · have := memWrite_rises (a := a) (by omega : k < a) v hm.2
        simp_all [Memory.wf]

theorem memWithin_cons (size k : Nat) (v : Word) (rest : Memory) :
    memWithin size ((k, v) :: rest) = (decide (k < size) && memWithin size rest) := rfl

theorem memEntry_within {size a : Nat} (h : a < size) (v : Word) {rest : Memory} (hr : memWithin size rest = true) :
    memWithin size (memEntry a v rest) = true := by
  unfold memEntry
  split
  · exact hr
  · simp [memWithin_cons, h, hr]

/-- A write inside a store lists no address outside it. -/
theorem memWrite_within {size a : Nat} (h : a < size) (v : Word) :
    ∀ {m : Memory}, memWithin size m = true → memWithin size (memWrite m a v) = true
  | [], _ => memEntry_within h v rfl
  | (k, u) :: rest, hm => by
    have hk : k < size ∧ memWithin size rest = true := by simpa [memWithin_cons] using hm
    unfold memWrite
    split
    · exact memEntry_within h v hm
    · split
      · exact memEntry_within h v hk.2
      · simp [memWithin_cons, hk.1, memWrite_within h v hk.2]

/-- `itramWrite` keeps the canonical form and the store's size. -/
theorem itramWrite_wf {m : Memory} (e : Int) (v : Word) (h : Memory.wf m = true) : Memory.wf (itramWrite m e v) = true := by
  unfold itramWrite
  split
  · exact memWrite_wf v h
  · exact h

theorem itramWrite_within {m : Memory} (e : Int) (v : Word) (h : memWithin Config.itramSize m = true) :
    memWithin Config.itramSize (itramWrite m e v) = true := by
  unfold itramWrite
  split
  · exact memWrite_within (by omega) v h
  · exact h

/-- What a word of the internal transfer RAM reads after a write, at any other index. -/
theorem itramRead_itramWrite_other {m : Memory} {e e' : Int} (h : e' ≠ e) (v : Word) :
    itramRead (itramWrite m e v) e' = itramRead m e' := by
  unfold itramRead itramWrite
  split
  · split
    · exact memRead_memWrite_other (by omega) v m
    · rfl
  · rfl

/-- What a word of the internal transfer RAM reads after a write of it: 0 outside the store, where the write
was dropped. -/
theorem itramRead_itramWrite_same {m : Memory} (e : Int) (v : Word) (h : Memory.wf m = true) :
    itramRead (itramWrite m e v) e = if 0 ≤ e ∧ e < (Config.itramSize : Int) then v else 0#32 := by
  unfold itramRead itramWrite
  split
  · exact memRead_memWrite_same v h
  · rfl

end Sys2Proof.Machine
end

