-- ==== Sys2Proof/Laws/PerInstr.lean ====
section
/-! SUPPORT. Facts about each instruction as syntax: the fields its encoding holds. -/

namespace Sys2Proof.Laws

/-- The five fields of a word put together in the order of 30_encoding R101 are read back as they were. -/
theorem fields_of_append (o : Byte) (r a x y : Addr) :
    opbField (o ++ r ++ a ++ x ++ y) = o ∧ rField (o ++ r ++ a ++ x ++ y) = r ∧
      aField (o ++ r ++ a ++ x ++ y) = a ∧ xField (o ++ r ++ a ++ x ++ y) = x ∧
      yField (o ++ r ++ a ++ x ++ y) = y := by
  unfold opbField rField aField xField yField
  refine ⟨?_, ?_, ?_, ?_, ?_⟩ <;> (ext i hi; simp [BitVec.getElem_append, BitVec.getLsbD_append]; try grind)

/-- The word of an instruction holds its opcode byte and its four fields. -/
def EncodedFields.Statement (i : Instr) : Prop :=
  opbField (encode i) = opcodeByte i ∧ rField (encode i) = i.fields.r ∧
    aField (encode i) = encodeA i.fields.a ∧ xField (encode i) = i.fields.x ∧ yField (encode i) = i.fields.y

theorem EncodedFields.macs (r : Addr) (a : OperandA) (x y : Addr) :
    EncodedFields.Statement (.macs r a x y) := fields_of_append _ _ _ _ _
theorem EncodedFields.macsn (r : Addr) (a : OperandA) (x y : Addr) :
    EncodedFields.Statement (.macsn r a x y) := fields_of_append _ _ _ _ _
theorem EncodedFields.macw (r : Addr) (a : OperandA) (x y : Addr) :
    EncodedFields.Statement (.macw r a x y) := fields_of_append _ _ _ _ _
theorem EncodedFields.macwn (r : Addr) (a : OperandA) (x y : Addr) :
    EncodedFields.Statement (.macwn r a x y) := fields_of_append _ _ _ _ _
theorem EncodedFields.macints (r : Addr) (a : OperandA) (x y : Addr) :
    EncodedFields.Statement (.macints r a x y) := fields_of_append _ _ _ _ _
theorem EncodedFields.macintw (r : Addr) (a : OperandA) (x y : Addr) :
    EncodedFields.Statement (.macintw r a x y) := fields_of_append _ _ _ _ _
theorem EncodedFields.acc3 (r : Addr) (a : OperandA) (x y : Addr) :
    EncodedFields.Statement (.acc3 r a x y) := fields_of_append _ _ _ _ _
theorem EncodedFields.macmv (r : Addr) (a : OperandA) (x y : Addr) :
    EncodedFields.Statement (.macmv r a x y) := fields_of_append _ _ _ _ _
theorem EncodedFields.andxor (r : Addr) (a : OperandA) (x y : Addr) :
    EncodedFields.Statement (.andxor r a x y) := fields_of_append _ _ _ _ _
theorem EncodedFields.testneg (r : Addr) (a : OperandA) (x y : Addr) :
    EncodedFields.Statement (.testneg r a x y) := fields_of_append _ _ _ _ _
theorem EncodedFields.limit (r : Addr) (a : OperandA) (x y : Addr) :
    EncodedFields.Statement (.limit r a x y) := fields_of_append _ _ _ _ _
theorem EncodedFields.limitl (r : Addr) (a : OperandA) (x y : Addr) :
    EncodedFields.Statement (.limitl r a x y) := fields_of_append _ _ _ _ _
theorem EncodedFields.log (r : Addr) (a : OperandA) (x y : Addr) :
    EncodedFields.Statement (.log r a x y) := fields_of_append _ _ _ _ _
theorem EncodedFields.exp (r : Addr) (a : OperandA) (x y : Addr) :
    EncodedFields.Statement (.exp r a x y) := fields_of_append _ _ _ _ _
theorem EncodedFields.interp (r : Addr) (a : OperandA) (x y : Addr) :
    EncodedFields.Statement (.interp r a x y) := fields_of_append _ _ _ _ _
theorem EncodedFields.skip (r : Addr) (a : OperandA) (x y : Addr) :
    EncodedFields.Statement (.skip r a x y) := fields_of_append _ _ _ _ _
theorem EncodedFields.unassigned10 (low : BitVec 4) (r : Addr) (a : OperandA) (x y : Addr) :
    EncodedFields.Statement (.unassigned10 low r a x y) := fields_of_append _ _ _ _ _
theorem EncodedFields.unassigned20 (low : BitVec 4) (r : Addr) (a : OperandA) (x y : Addr) :
    EncodedFields.Statement (.unassigned20 low r a x y) := fields_of_append _ _ _ _ _
theorem EncodedFields.unassigned30 (low : BitVec 4) (r : Addr) (a : OperandA) (x y : Addr) :
    EncodedFields.Statement (.unassigned30 low r a x y) := fields_of_append _ _ _ _ _
theorem EncodedFields.unassigned40 (low : BitVec 4) (r : Addr) (a : OperandA) (x y : Addr) :
    EncodedFields.Statement (.unassigned40 low r a x y) := fields_of_append _ _ _ _ _
theorem EncodedFields.unassigned50 (low : BitVec 4) (r : Addr) (a : OperandA) (x y : Addr) :
    EncodedFields.Statement (.unassigned50 low r a x y) := fields_of_append _ _ _ _ _
theorem EncodedFields.unassigned60 (low : BitVec 4) (r : Addr) (a : OperandA) (x y : Addr) :
    EncodedFields.Statement (.unassigned60 low r a x y) := fields_of_append _ _ _ _ _
theorem EncodedFields.unassigned70 (low : BitVec 4) (r : Addr) (a : OperandA) (x y : Addr) :
    EncodedFields.Statement (.unassigned70 low r a x y) := fields_of_append _ _ _ _ _
theorem EncodedFields.unassigned80 (low : BitVec 4) (r : Addr) (a : OperandA) (x y : Addr) :
    EncodedFields.Statement (.unassigned80 low r a x y) := fields_of_append _ _ _ _ _
theorem EncodedFields.unassigned90 (low : BitVec 4) (r : Addr) (a : OperandA) (x y : Addr) :
    EncodedFields.Statement (.unassigned90 low r a x y) := fields_of_append _ _ _ _ _
theorem EncodedFields.unassignedA0 (low : BitVec 4) (r : Addr) (a : OperandA) (x y : Addr) :
    EncodedFields.Statement (.unassignedA0 low r a x y) := fields_of_append _ _ _ _ _
theorem EncodedFields.unassignedB0 (low : BitVec 4) (r : Addr) (a : OperandA) (x y : Addr) :
    EncodedFields.Statement (.unassignedB0 low r a x y) := fields_of_append _ _ _ _ _
theorem EncodedFields.unassignedC0 (low : BitVec 4) (r : Addr) (a : OperandA) (x y : Addr) :
    EncodedFields.Statement (.unassignedC0 low r a x y) := fields_of_append _ _ _ _ _
theorem EncodedFields.unassignedD0 (low : BitVec 4) (r : Addr) (a : OperandA) (x y : Addr) :
    EncodedFields.Statement (.unassignedD0 low r a x y) := fields_of_append _ _ _ _ _
theorem EncodedFields.unassignedE0 (low : BitVec 4) (r : Addr) (a : OperandA) (x y : Addr) :
    EncodedFields.Statement (.unassignedE0 low r a x y) := fields_of_append _ _ _ _ _
theorem EncodedFields.unassignedF0 (low : BitVec 4) (r : Addr) (a : OperandA) (x y : Addr) :
    EncodedFields.Statement (.unassignedF0 low r a x y) := fields_of_append _ _ _ _ _

end Sys2Proof.Laws
end

