-- ==== Sys2Proof/Tests/Slice0.lean ====
section
/-! SUPPORT. The model's own tests: expected results are the spec's (30_encoding R101, 95_test_vectors); then,
for each obligation with hypotheses, concrete states and operands that meet them. -/

namespace Sys2Proof.Tests

open Sys2Proof Sys2Proof.Machine

/-! ### Well-formedness: the one check, on every place it can fail or hold -/

theorem test_wellFormed_refuses_memory_FFFF :
    (Instr.macs 0x0100#16 (.mem 0xFFFF#16) 0x0101#16 0x0102#16).wellFormed = false := by decide

theorem test_wellFormed_refuses_memory_FFFF_unassigned :
    (Instr.unassignedF0 0x0#4 0x0100#16 (.mem 0xFFFF#16) 0x0101#16 0x0102#16).wellFormed = false := by decide

theorem test_wellFormed_accepts_FFFF_elsewhere :
    (Instr.skip 0xFFFF#16 .acc 0xFFFF#16 0xFFFF#16).wellFormed = true := by decide

/-! ### Decoding: one word per constructor, written out from 30_encoding R101 and R106 -/

theorem test_decode_macs : decode 0x00123456789ABCDEF0#72 =
    .macs 0x1234#16 (.mem 0x5678#16) 0x9ABC#16 0xDEF0#16 := by decide

theorem test_decode_macsn : decode 0x01123456789ABCDEF0#72 =
    .macsn 0x1234#16 (.mem 0x5678#16) 0x9ABC#16 0xDEF0#16 := by decide

theorem test_decode_macw : decode 0x02123456789ABCDEF0#72 =
    .macw 0x1234#16 (.mem 0x5678#16) 0x9ABC#16 0xDEF0#16 := by decide

theorem test_decode_macwn : decode 0x03123456789ABCDEF0#72 =
    .macwn 0x1234#16 (.mem 0x5678#16) 0x9ABC#16 0xDEF0#16 := by decide

theorem test_decode_macints : decode 0x04123456789ABCDEF0#72 =
    .macints 0x1234#16 (.mem 0x5678#16) 0x9ABC#16 0xDEF0#16 := by decide

theorem test_decode_macintw : decode 0x05123456789ABCDEF0#72 =
    .macintw 0x1234#16 (.mem 0x5678#16) 0x9ABC#16 0xDEF0#16 := by decide

theorem test_decode_acc3 : decode 0x06123456789ABCDEF0#72 =
    .acc3 0x1234#16 (.mem 0x5678#16) 0x9ABC#16 0xDEF0#16 := by decide

theorem test_decode_macmv : decode 0x07123456789ABCDEF0#72 =
    .macmv 0x1234#16 (.mem 0x5678#16) 0x9ABC#16 0xDEF0#16 := by decide

theorem test_decode_andxor : decode 0x08123456789ABCDEF0#72 =
    .andxor 0x1234#16 (.mem 0x5678#16) 0x9ABC#16 0xDEF0#16 := by decide

theorem test_decode_testneg : decode 0x09123456789ABCDEF0#72 =
    .testneg 0x1234#16 (.mem 0x5678#16) 0x9ABC#16 0xDEF0#16 := by decide

theorem test_decode_limit : decode 0x0A123456789ABCDEF0#72 =
    .limit 0x1234#16 (.mem 0x5678#16) 0x9ABC#16 0xDEF0#16 := by decide

theorem test_decode_limitl : decode 0x0B123456789ABCDEF0#72 =
    .limitl 0x1234#16 (.mem 0x5678#16) 0x9ABC#16 0xDEF0#16 := by decide

theorem test_decode_log : decode 0x0C123456789ABCDEF0#72 =
    .log 0x1234#16 (.mem 0x5678#16) 0x9ABC#16 0xDEF0#16 := by decide

theorem test_decode_exp : decode 0x0D123456789ABCDEF0#72 =
    .exp 0x1234#16 (.mem 0x5678#16) 0x9ABC#16 0xDEF0#16 := by decide

theorem test_decode_interp : decode 0x0E123456789ABCDEF0#72 =
    .interp 0x1234#16 (.mem 0x5678#16) 0x9ABC#16 0xDEF0#16 := by decide

theorem test_decode_skip : decode 0x0F123456789ABCDEF0#72 =
    .skip 0x1234#16 (.mem 0x5678#16) 0x9ABC#16 0xDEF0#16 := by decide

theorem test_decode_unassigned10 : decode 0x120100FFFF01010102#72 =
    .unassigned10 0x2#4 0x0100#16 .acc 0x0101#16 0x0102#16 := by decide

theorem test_decode_unassigned20 : decode 0x250100FFFF01010102#72 =
    .unassigned20 0x5#4 0x0100#16 .acc 0x0101#16 0x0102#16 := by decide

theorem test_decode_unassigned30 : decode 0x380100FFFF01010102#72 =
    .unassigned30 0x8#4 0x0100#16 .acc 0x0101#16 0x0102#16 := by decide

theorem test_decode_unassigned40 : decode 0x4B0100FFFF01010102#72 =
    .unassigned40 0xB#4 0x0100#16 .acc 0x0101#16 0x0102#16 := by decide

theorem test_decode_unassigned50 : decode 0x5E0100FFFF01010102#72 =
    .unassigned50 0xE#4 0x0100#16 .acc 0x0101#16 0x0102#16 := by decide

theorem test_decode_unassigned60 : decode 0x610100FFFF01010102#72 =
    .unassigned60 0x1#4 0x0100#16 .acc 0x0101#16 0x0102#16 := by decide

theorem test_decode_unassigned70 : decode 0x740100FFFF01010102#72 =
    .unassigned70 0x4#4 0x0100#16 .acc 0x0101#16 0x0102#16 := by decide

theorem test_decode_unassigned80 : decode 0x870100FFFF01010102#72 =
    .unassigned80 0x7#4 0x0100#16 .acc 0x0101#16 0x0102#16 := by decide

theorem test_decode_unassigned90 : decode 0x9A0100FFFF01010102#72 =
    .unassigned90 0xA#4 0x0100#16 .acc 0x0101#16 0x0102#16 := by decide

theorem test_decode_unassignedA0 : decode 0xAD0100FFFF01010102#72 =
    .unassignedA0 0xD#4 0x0100#16 .acc 0x0101#16 0x0102#16 := by decide

theorem test_decode_unassignedB0 : decode 0xB00100FFFF01010102#72 =
    .unassignedB0 0x0#4 0x0100#16 .acc 0x0101#16 0x0102#16 := by decide

theorem test_decode_unassignedC0 : decode 0xC30100FFFF01010102#72 =
    .unassignedC0 0x3#4 0x0100#16 .acc 0x0101#16 0x0102#16 := by decide

theorem test_decode_unassignedD0 : decode 0xD60100FFFF01010102#72 =
    .unassignedD0 0x6#4 0x0100#16 .acc 0x0101#16 0x0102#16 := by decide

theorem test_decode_unassignedE0 : decode 0xE90100FFFF01010102#72 =
    .unassignedE0 0x9#4 0x0100#16 .acc 0x0101#16 0x0102#16 := by decide

theorem test_decode_unassignedF0 : decode 0xFC0100FFFF01010102#72 =
    .unassignedF0 0xC#4 0x0100#16 .acc 0x0101#16 0x0102#16 := by decide

/-- 95_test_vectors C10. -/
theorem test_decodeBytes_C10 :
    decodeBytes [0x0E#8, 0x01#8, 0x00#8, 0xFF#8, 0xFF#8, 0x01#8, 0x01#8, 0x01#8, 0x02#8] =
      .ok (.interp 0x0100#16 .acc 0x0101#16 0x0102#16, []) := by decide

theorem test_decodeBytes_refuses_eight_bytes :
    decodeBytes [0x0E#8, 0x01#8, 0x00#8, 0xFF#8, 0xFF#8, 0x01#8, 0x01#8, 0x01#8] = .error (.truncated 8) := by decide

/-- 30_encoding R110's word, its opcode row bits given as the table numbers them. -/
theorem test_decodeTableWord_C1 :
    decodeTableWord 72 0x000100FFFF01010102 = some (.macs 0x0100#16 .acc 0x0101#16 0x0102#16) := by decide

/-! ### One step of each instruction, with the values of 95_test_vectors L1 and L2 -/

/-- Reset with GPR 1, 2 and 3 holding the operands A, X and Y, and `acc` in the accumulator. -/
def start (a x y : Word) (acc : Int) : State :=
  { State.reset with
    gpr := ((State.reset.gpr.set 1 a).set 2 x).set 3 y
    acc := Accumulator.write acc }

/-- GPR 0 and the accumulator's value after the step that runs the word as the first instruction. -/
def ran (w : Nat) (s : State) : Option (Word × Int) :=
  match step (s.withFetchWord 72 w) with
  | .next t => some (t.gpr[0], t.acc.value)
  | .fault _ => none
  | .refused _ => none

/-- L1-7. -/
theorem test_macs_L1_7 : ran 0x000100FFFF01020103 (start 0x0#32 0x40000000#32 0x40000000#32 0) = some (0x20000000#32, 536870912) := by decide

/-- D2: wrapped. -/
theorem test_macs_D2 : ran 0x000100010101020103 (start 0x7FFFFFFF#32 0x7FFFFFFF#32 0x7FFFFFFF#32 5) = some (0xFFFFFFFD#32, 4294967293) := by decide

/-- D6: the negation is exact. -/
theorem test_macsn_D6 : ran 0x010100010101020103 (start 0x0#32 0x80000000#32 0x80000000#32 5) = some (0x80000000#32, -2147483648) := by decide

/-- D11: the shift comes after the negation. -/
theorem test_macsn_D11 : ran 0x010100010101020103 (start 0x0#32 0x1#32 0x1#32 5) = some (0xFFFFFFFF#32, -1) := by decide

/-- D3: saturated, the accumulator whole. -/
theorem test_macw_D3 : ran 0x020100010101020103 (start 0x7FFFFFFF#32 0x7FFFFFFF#32 0x7FFFFFFF#32 5) = some (0x7FFFFFFF#32, 4294967293) := by decide

/-- D32: A is the accumulator. -/
theorem test_macw_D32 : ran 0x020100FFFF01020103 (start 0x0#32 0x40000000#32 0x40000000#32 1099511627776) = some (0x7FFFFFFF#32, 1100048498688) := by decide

/-- D7. -/
theorem test_macwn_D7 : ran 0x030100010101020103 (start 0x0#32 0x80000000#32 0x80000000#32 5) = some (0x80000000#32, -2147483648) := by decide

/-- D13. -/
theorem test_macwn_D13 : ran 0x030100010101020103 (start 0x80000000#32 0x40000000#32 0x40000000#32 5) = some (0x80000000#32, -2684354560) := by decide

/-- D17. -/
theorem test_macints_D17 : ran 0x040100010101020103 (start 0x5#32 0xFFFFFFFD#32 0x4#32 9) = some (0xFFFFFFF9#32, -7) := by decide

/-- D23. -/
theorem test_macints_D23 : ran 0x040100010101020103 (start 0x7FFFFFFF#32 0x1#32 0x1#32 9) = some (0x7FFFFFFF#32, 2147483648) := by decide

/-- D18: the sign bit is cleared. -/
theorem test_macintw_D18 : ran 0x050100010101020103 (start 0x5#32 0xFFFFFFFD#32 0x4#32 9) = some (0x7FFFFFF9#32, -7) := by decide

/-- D22. -/
theorem test_macintw_D22 : ran 0x050100010101020103 (start 0x7FFFFFFF#32 0x1#32 0x1#32 9) = some (0x0#32, 2147483648) := by decide

/-- D25. -/
theorem test_acc3_D25 : ran 0x060100010101020103 (start 0x1#32 0x2#32 0x3#32 9) = some (0x6#32, 6) := by decide

/-- D27. -/
theorem test_acc3_D27 : ran 0x060100010101020103 (start 0x80000000#32 0xFFFFFFFF#32 0x0#32 9) = some (0x80000000#32, -2147483649) := by decide

/-- D29. -/
theorem test_macmv_D29 : ran 0x070100010101020103 (start 0x1234#32 0x3#32 0x4#32 10) = some (0x1234#32, 22) := by decide

/-- D30. -/
theorem test_macmv_D30 : ran 0x070100FFFF01020103 (start 0x0#32 0x2#32 0x3#32 4294967303) = some (0x7#32, 4294967309) := by decide

/-- E1. -/
theorem test_andxor_E1 : ran 0x080100010101020103 (start 0xFF00FF00#32 0xFF00FF0#32 0xFFFFFFFF#32 9) = some (0xF0FFF0FF#32, -251662081) := by decide

/-- E5. -/
theorem test_andxor_E5 : ran 0x080100FFFF01020103 (start 0x0#32 0xFFFFFFFF#32 0x0#32 6442450945) = some (0x80000001#32, -2147483647) := by decide

/-- E9: the negation wraps. -/
theorem test_testneg_E9 : ran 0x090100010101020103 (start 0xFFFFFFFF#32 0x80000000#32 0x0#32 77) = some (0x80000000#32, 77) := by decide

/-- E11: compared at 64 bits. -/
theorem test_testneg_E11 : ran 0x090100FFFF01020103 (start 0x0#32 0x9#32 0x80000000#32 (-1099511627776)) = some (0xFFFFFFF7#32, -1099511627776) := by decide

/-- E12. -/
theorem test_limit_E12 : ran 0x0A0100010101020103 (start 0xA#32 0x64#32 0x14#32 77) = some (0x14#32, 77) := by decide

/-- E14: equal selects X. -/
theorem test_limit_E14 : ran 0x0A0100010101020103 (start 0x14#32 0x64#32 0x14#32 77) = some (0x64#32, 77) := by decide

/-- E15. -/
theorem test_limitl_E15 : ran 0x0B0100010101020103 (start 0xA#32 0x64#32 0x14#32 77) = some (0x64#32, 77) := by decide

/-- E17: equal selects Y. -/
theorem test_limitl_E17 : ran 0x0B0100010101020103 (start 0x14#32 0x64#32 0x14#32 77) = some (0x14#32, 77) := by decide

/-- G3. -/
theorem test_interp_G3 : ran 0x0E0100010101020103 (start 0x64#32 0x7FFFFFFF#32 0x1F4#32 9) = some (0x1F3#32, 499) := by decide

/-- G8: the product wraps to 0. -/
theorem test_interp_G8 : ran 0x0E0100FFFF01020103 (start 0x0#32 0x40000000#32 0x0#32 1099511627776) = some (0x7FFFFFFF#32, 1099511627776) := by decide

/-- G9. -/
theorem test_skip_G9 : ran 0x0F0100010101020103 (start 0x1#32 0x2#32 0x3#32 77) = some (0x0#32, 77) := by decide

/-- G10. -/
theorem test_unassigned10_G10 : ran 0x100100010101020103 (start 0x1#32 0x2#32 0x3#32 77) = some (0x0#32, 77) := by decide

/-- G10. -/
theorem test_unassigned20_G10 : ran 0x200100010101020103 (start 0x1#32 0x2#32 0x3#32 77) = some (0x0#32, 77) := by decide

/-- G10. -/
theorem test_unassigned30_G10 : ran 0x300100010101020103 (start 0x1#32 0x2#32 0x3#32 77) = some (0x0#32, 77) := by decide

/-- G10. -/
theorem test_unassigned40_G10 : ran 0x400100010101020103 (start 0x1#32 0x2#32 0x3#32 77) = some (0x0#32, 77) := by decide

/-- G10. -/
theorem test_unassigned50_G10 : ran 0x500100010101020103 (start 0x1#32 0x2#32 0x3#32 77) = some (0x0#32, 77) := by decide

/-- G10. -/
theorem test_unassigned60_G10 : ran 0x600100010101020103 (start 0x1#32 0x2#32 0x3#32 77) = some (0x0#32, 77) := by decide

/-- G10. -/
theorem test_unassigned70_G10 : ran 0x700100010101020103 (start 0x1#32 0x2#32 0x3#32 77) = some (0x0#32, 77) := by decide

/-- G10. -/
theorem test_unassigned80_G10 : ran 0x800100010101020103 (start 0x1#32 0x2#32 0x3#32 77) = some (0x0#32, 77) := by decide

/-- G10. -/
theorem test_unassigned90_G10 : ran 0x900100010101020103 (start 0x1#32 0x2#32 0x3#32 77) = some (0x0#32, 77) := by decide

/-- G10. -/
theorem test_unassignedA0_G10 : ran 0xA00100010101020103 (start 0x1#32 0x2#32 0x3#32 77) = some (0x0#32, 77) := by decide

/-- G10. -/
theorem test_unassignedB0_G10 : ran 0xB00100010101020103 (start 0x1#32 0x2#32 0x3#32 77) = some (0x0#32, 77) := by decide

/-- G10. -/
theorem test_unassignedC0_G10 : ran 0xC00100010101020103 (start 0x1#32 0x2#32 0x3#32 77) = some (0x0#32, 77) := by decide

/-- G10. -/
theorem test_unassignedD0_G10 : ran 0xD00100010101020103 (start 0x1#32 0x2#32 0x3#32 77) = some (0x0#32, 77) := by decide

/-- G10. -/
theorem test_unassignedE0_G10 : ran 0xE00100010101020103 (start 0x1#32 0x2#32 0x3#32 77) = some (0x0#32, 77) := by decide

/-- G10. -/
theorem test_unassignedF0_G10 : ran 0xF00100010101020103 (start 0x1#32 0x2#32 0x3#32 77) = some (0x0#32, 77) := by decide

/-- LOG writes the transfer function's value, whatever it is (43_log_exp R180). -/
theorem test_log : ran 0x0C0100010101020103 (start 5#32 7#32 0#32 77) = some (Config.logFn 5#32 7#32 0#32, 77) := rfl

/-- EXP writes the transfer function's value, whatever it is (43_log_exp R181). -/
theorem test_exp : ran 0x0D0100010101020103 (start 5#32 7#32 0#32 77) = some (expFn 5#32 7#32 0#32, 77) := rfl

/-- F2 of the reference instance: the two low bits are lost. -/
theorem test_reference_F2 : refLogFn 0x7FFFFFFF#32 7#32 0#32 = 0x7FFFFFFF#32 ∧
    refExpFn 0x7FFFFFFF#32 7#32 0#32 = 0x7FFFFFFC#32 := by decide

/-- F16 of the reference instance. -/
theorem test_reference_F16 : refLogFn 0xC0000000#32 7#32 3#32 = 0x90000000#32 ∧
    refExpFn 0x90000000#32 7#32 3#32 = 0xC0000000#32 := by decide

/-! ### The accumulator, the bus and the tick -/

/-- A5: the views of 2^63. -/
theorem test_accumulator_A5 :
    let c := (Accumulator.write 0x4000000000000000).add 0x4000000000000000
    c.read = 0x8000000000000000#64 ∧ c.readSat = 0x7FFFFFFFFFFFFFFF#64 ∧ c.readLowWrap = 0#32 ∧
      c.readLowSat = 0x7FFFFFFF#32 := by decide

/-- A7: sixteen times -2^63 is a negative zero. -/
theorem test_accumulator_A7 :
    (List.replicate 15 (-0x8000000000000000 : Int)).foldl Accumulator.add (Accumulator.write (-0x8000000000000000)) =
      ⟨true, 0#32, 0#32, 0#3⟩ := by decide

/-- B3, B4 and B10; the last but one constant by its hexadecimal value (log 28). -/
theorem test_bus_constants : busValue 0x53 State.reset = 0x4F1BBCDC#32 ∧ busValue 0x54 State.reset = 0x5A7EF9DB#32 ∧
    busValue 0x55 State.reset = 0x00100000#32 ∧ busValue 0x45 (busWrite 0x45 99#32 State.reset) = 8#32 := by decide

/-- B12, B13 and B22. -/
theorem test_bus_registers : busValue 0x100 (busWrite 0x100 0xFFFFFFF9#32 State.reset) = 0xFFFFFFF9#32 ∧
    busValue 0x1FF (busWrite 0x1FF 5#32 State.reset) = 5#32 ∧
    busValue 0x380 (busWrite 0x380 0xFFFFFFFC#32 State.reset) = 0xFFFFFFFC#32 := by decide

/-- B16 and B17: an effective address can be negative, and the sum wraps at 32 bits. -/
theorem test_bus_effective : indirectAddr (State.reset.itramAddr.set 3 0xFFFFFFF6#32) 5#32 3 = some (-5) ∧
    indirectAddr (State.reset.xtramAddr.set 0 0x7FFFFFFF#32) 1#32 0 = some (-2147483648) := by decide

/-- B20: a write to FX2 is one event of the FX bus's output bank. -/
theorem test_bus_event : (busWrite 0x31 3#32 State.reset).events = [.write .fx2 1 3#32] := by decide

/-- L1-5: a Split bank of four children. -/
theorem test_split_L1_5 :
    let b := Bank.split 2 1 [.leaf .gpr, .leaf .sys, .leaf .itramAddr, .leaf .xtramAddr]
    b.route 4 = (.itramAddr, 0) ∧ b.route 2 = (.sys, 0) ∧ b.route 5 = (.itramAddr, 1) ∧ b.route 8 = (.empty, 8) := by
  decide

/-- H2: the counter wraps. -/
theorem test_tick_H2 : (endTick { State.reset with tick := 0x7FFFFFFF#32 }).tick = 0x80000000#32 := by decide

/-! ### Witnesses: each obligation's hypotheses are met, clause by clause at the ends of their ranges -/

/-- The machine at the last word of a one-word program. -/
def atLast : State :=
  { State.reset with program := ⟨[0x0F0100010101020103#72], 0, 0, 0⟩, phase := .running 0 }

/-- The machine past the last word of that program. -/
def pastLast : State := { atLast with phase := .running 1 }

/-- Reset with one host call pending. -/
def calling (c : HostCall) : State := { State.reset with host := [c] }

theorem atLast_inv : atLast.Inv := ⟨rfl, rfl, fun ip h => by cases h; decide⟩

theorem witness_DecodeOfEncodeIsIdentity :
    (Instr.macs 0xFFFF#16 .acc 0x0000#16 0xFFFF#16).wellFormed = true ∧
    (Instr.unassignedF0 0xF#4 0x0000#16 (.mem 0xFFFE#16) 0xFFFF#16 0x0000#16).wellFormed = true := by decide

theorem witness_EveryWordDecodesToItsFields :
    decode 0xFFFFFFFFFFFFFFFFFF#72 = decode 0xFFFFFFFFFFFFFFFFFF#72 ∧
    16 ≤ (opbField 0x10FFFFFFFFFFFFFFFF#72).toNat ∧ 16 ≤ (opbField 0xFFFFFFFFFFFFFFFFFF#72).toNat ∧
    (decode 0x10FFFFFFFFFFFFFFFF#72).fields = (decode 0xFFFFFFFFFFFFFFFFFF#72).fields := by decide

theorem witness_OpcodeBytesNameTheirInstructions : 16 ≤ (0x10#8).toNat ∧ 16 ≤ (0xFF#8).toNat := by decide

theorem witness_ByteFormRoundTrips :
    (Instr.exp 0xFFFF#16 (.mem 0xFFFE#16) 0x0000#16 0xFFFF#16).wellFormed = true ∧ ([] : List Byte).length < 9 ∧
    (List.replicate 8 0xFF#8).length < 9 := by decide

theorem witness_StepRunsTheDecodedInstruction :
    atLast.phase = .running 0 ∧ atLast.program.words[0]? = some 0x0F0100010101020103#72 ∧
    exec (decode 0x0F0100010101020103#72) atLast = .next atLast ∧
    (∃ t, exec (decode (BitVec.ofNat 72 (0x0F0100010101020103 % 2 ^ 72)))
      (State.reset.withFetchWord 72 0x0F0100010101020103) = .next t) ∧
    pastLast.phase = .running 1 ∧ pastLast.program.words[1]? = none :=
  ⟨rfl, rfl, rfl, ⟨_, rfl⟩, rfl, rfl⟩

theorem witness_TickRunsTheProgramOnceTopToBottom :
    (calling .tick).phase = .idle ∧ (calling .tick).host = .tick :: [] := by decide

theorem witness_StepKeepsTheInvariant :
    atLast.Inv ∧ step atLast = .next pastLast ∧ pastLast.Inv ∧ (∃ t, step pastLast = .next t) :=
  ⟨atLast_inv, rfl,
    ⟨rfl, rfl, fun ip h => by cases h; decide⟩, ⟨_, rfl⟩⟩

theorem witness_HostActsOnlyBetweenTicks :
    atLast.phase = .running 0 ∧ step atLast = .next pastLast := ⟨rfl, rfl⟩

theorem witness_HostCallsHaveTheirEffects :
    (calling (.peek (-1))).phase = .idle ∧ (calling (.peek (-1))).host = .peek (-1) :: [] ∧
    (calling (.peek 0x56)).host = .peek 0x56 :: [] ∧ (calling (.poke 0x10000 1#32)).host = .poke 0x10000 1#32 :: [] ∧
    (calling (.poke 0x5B 1#32)).host = .poke 0x5B 1#32 :: [] ∧ (calling .accRead).host = .accRead :: [] ∧
    (calling (.accWrite 0x8000000000000000#64)).host = .accWrite 0x8000000000000000#64 :: [] ∧
    (calling (.loadProgram ⟨[], 0, 0, 0⟩)).host = .loadProgram ⟨[], 0, 0, 0⟩ :: [] ∧
    (calling .tick).host = .tick :: [] := by decide

theorem witness_LoadProgramReplacesOnlyTheProgram :
    (calling (.loadProgram atLast.program)).phase = .idle ∧
    (calling (.loadProgram atLast.program)).host = .loadProgram atLast.program :: [] := by decide

theorem witness_IdleMachineKeepsItsState : State.reset.phase = .idle ∧ State.reset.host = [] := by decide

theorem witness_NoiseChangesOnlyAtTheStartOfATick :
    ∃ s t : State, step s = .next t ∧ (t.noise0 ≠ s.noise0 ∨ t.noise1 ≠ s.noise1) := by
  refine ⟨{ calling .tick with noise0 := Config.noise 1 .n0 + 1#32 }, _, rfl, .inl ?_⟩
  show Config.noise 1 .n0 ≠ Config.noise 1 .n0 + 1#32
  bv_omega

theorem witness_TickWriteGovernsLaterAccesses : 0 < 128 ∧ 127 < 128 := by decide

theorem witness_ProgramChangesOnlyByLoadProgram :
    ∃ t : State, step (calling (.loadProgram atLast.program)) = .next t ∧
      t.program ≠ (calling (.loadProgram atLast.program)).program := ⟨_, rfl, by decide⟩

theorem witness_SystemLeafReads :
    (0x5C : Int) ≤ 0x5C ∧ (0x5C : Int) ≤ 0x7F ∧ (0x5C : Int) ≤ 0x7F ∧ (0x7F : Int) ≤ 0x7F := by decide

theorem witness_SystemLeafWrites :
    ∀ a ∈ [(0x40 : Int), 0x55, 0x56, 0x5A, 0x5C, 0x7F], 0x40 ≤ a ∧ a ≤ 0x7F ∧ a ≠ 0x5B := by decide

theorem witness_ReservedAddressesReadZeroAndDropWrites :
    ∀ a ∈ [(-1 : Int), 0x5C, 0x7F, 0x80, 0xFF, 0x400, 0xFFFF, 0x10000],
      a < 0 ∨ (0x5C ≤ a ∧ a ≤ 0x7F) ∨ (0x80 ≤ a ∧ a ≤ 0xFF) ∨ 0x400 ≤ a := by decide

theorem witness_GprRegionReadsAndWrites : 0 < 256 ∧ 255 < 256 := by decide

theorem witness_AddressRegisterRegions : 0 < 128 ∧ 127 < 128 := by decide

theorem witness_TransferWindows :
    (State.reset.itramAddr.set 127 5#32)[127].toInt = (State.reset.itramAddr.set 127 5#32)[0].toInt + 5 ∧
    (State.reset.xtramAddr.set 127 0xFFFFFFFB#32)[127].toInt =
      (State.reset.xtramAddr.set 127 0xFFFFFFFB#32)[0].toInt + -5 := by decide

theorem witness_IoRegionsPassThrough :
    0 < 16 ∧ 15 < 16 ∧ ((0x00 : Int), Port.fxIn) ∈ [((0x00 : Int), Port.fxIn), (0x10, .extIn), (0x20, .extOut), (0x30, .fx2)] ∧
    ((0x30 : Int), Port.fx2) ∈ [((0x00 : Int), Port.fxIn), (0x10, .extIn), (0x20, .extOut), (0x30, .fx2)] := by decide

theorem witness_WriteIsSeenByTheNextRead :
    atLast.Inv ∧
    (∀ a ∈ [(0x100 : Int), 0x1FF, 0x300, 0x3FF, 0x5B],
      (0x100 ≤ a ∧ a ≤ 0x1FF) ∨ (0x300 ≤ a ∧ a ≤ 0x3FF) ∨ a = 0x5B) ∧
    (∀ a ∈ [(0x200 : Int), 0x27F], 0x200 ≤ a ∧ a ≤ 0x27F) := ⟨atLast_inv, by decide, by decide⟩

theorem witness_DelayLineAcrossTicks :
    let s := atLast
    let t := { (busWrite (0x200 + ((0 : Nat) : Int)) 9#32 s) with
      tick := s.tick + 2#32, itramAddr := s.itramAddr.set 127 (s.itramAddr[0] - 2#32) }
    s.Inv ∧ t.tick = s.tick + 2#32 ∧ t.itramAddr[127] = s.itramAddr[0] - 2#32 ∧
    indirectAddr s.itramAddr s.tick 0 = some 0 ∧
    itramRead t.itram 0 = itramRead (busWrite (0x200 + ((0 : Nat) : Int)) 9#32 s).itram 0 :=
  ⟨atLast_inv, rfl, by decide, by decide, rfl⟩

theorem witness_ArrayAndIndirectBanks :
    (0 ≤ (0 : Int) ∧ (0 : Int).toNat < 128) ∧ (0 ≤ (127 : Int) ∧ (127 : Int).toNat < 128) ∧
    ¬ (0 ≤ (-1 : Int) ∧ (-1 : Int).toNat < 128) ∧ ¬ (0 ≤ (128 : Int) ∧ (128 : Int).toNat < 128) ∧
    ¬ (0 ≤ (0 : Int) ∧ (0 : Int).toNat < 0) := by decide

theorem witness_AccWriteLoadsTheValue :
    (0x8000000000000000 : Int).natAbs ≤ 2 ^ 63 ∧ (-0x8000000000000000 : Int).natAbs ≤ 2 ^ 63 := by decide

theorem witness_AccAddIsSignMagnitude :
    let c := Accumulator.write 5
    (decide ((0x8000000000000000 : Int) < 0) = c.s) ∧
    (decide ((-4 : Int) < 0) ≠ c.s ∧ (-4 : Int).natAbs < c.mag) ∧
    (decide ((-6 : Int) < 0) ≠ c.s ∧ c.mag < (-6 : Int).natAbs) ∧
    (decide ((-5 : Int) < 0) ≠ c.s ∧ c.mag = (-5 : Int).natAbs) := by decide

theorem witness_AccumulatorSumsAreExact :
    ((0x8000000000000000#64).toInt + (0x7FFFFFFFFFFFFFFF#64).toInt).natAbs < 2 ^ 67 ∧
    -2 ^ 63 ≤ (0x8000000000000000#64).toInt + (0x0#64).toInt ∧
    (0x8000000000000000#64).toInt + (0x0#64).toInt < 2 ^ 63 ∧
    (∀ n, ((1#64).toInt + ((([] : List DWord).take n).map BitVec.toInt).sum).natAbs < 2 ^ 67) :=
  ⟨by decide, by decide, by decide, fun n => by simp⟩

theorem witness_AccumulatorReadViews :
    let p := Accumulator.ofMag false (2 ^ 63)
    let n := Accumulator.ofMag true (2 ^ 63)
    (p.s = false ∧ 2 ^ 63 ≤ p.mag) ∧ (n.s = true ∧ 2 ^ 63 ≤ n.mag) ∧
    (Accumulator.ofMag true (2 ^ 63 - 1)).mag < 2 ^ 63 ∧
    2 ^ 31 ≤ (Accumulator.write 0x80000000).value ∧ (Accumulator.write (-0x80000001)).value < -2 ^ 31 ∧
    (-2 ^ 31 ≤ (Accumulator.write (-0x80000000)).value ∧ (Accumulator.write 0x7FFFFFFF).value < 2 ^ 31) := by decide

theorem witness_TwoZerosReadAlike :
    Accumulator.mag ⟨false, 0#32, 0#32, 0#3⟩ = 0 ∧ Accumulator.mag ⟨true, 0#32, 0#32, 0#3⟩ = 0 := by decide

theorem witness_OperandFetchIsOrderedAndPure :
    coreOwned (busAddr 0x0100#16) ∧ coreOwned (busAddr 0x0040#16) ∧ coreOwned (busAddr 0xFFFF#16) ∧
    coreOwned (busAddr 0x0200#16) ∧ (0x0000#16).toNat < 16 ∧ (0x000F#16).toNat < 16 :=
  ⟨trivial, trivial, trivial, trivial, by decide, by decide⟩

theorem witness_WriteBackSkipsTheAccumulatorRegister : 0x0055#16 ≠ 0x0056#16 ∧ 0x0057#16 ≠ 0x0056#16 := by decide

theorem witness_InstructionFrame :
    (∃ t, exec (.skip 0x0100#16 .acc 0x0101#16 0x0102#16) State.reset = .next t) ∧
    changesAccumulator (.skip 0x0100#16 .acc 0x0101#16 0x0102#16) = false ∧
    changesAccumulator (.exp 0x0100#16 .acc 0x0101#16 0x0102#16) = false ∧
    writesResult (.unassigned10 0x0#4 0x0100#16 .acc 0x0101#16 0x0102#16) = false ∧
    (∃ t, exec (.macs 0x0056#16 .acc 0x0101#16 0x0102#16) State.reset = .next t) ∧
    busMap (busAddr 0x0100#16) ≠ (.gpr, ((255 : Nat) : Int)) ∧ busMap (busAddr 0x0300#16) ≠ (.itramAddr, ((127 : Nat) : Int)) ∧
    busMap (busAddr 0x0380#16) ≠ (.xtramAddr, ((127 : Nat) : Int)) ∧ busMap (busAddr 0x0100#16) ≠ (.sys, sysTick) ∧
    itramTarget 0x0200#16 State.reset ≠ some 1 :=
  ⟨⟨_, rfl⟩, rfl, rfl, rfl, ⟨_, rfl⟩, by decide, by decide, by decide, by decide, by decide⟩

theorem witness_MacmvMovesAAndAccumulatesTheProduct :
    (State.reset.acc.value + (0x80000000#32).toInt * (0x80000000#32).toInt).natAbs < 2 ^ 67 := by decide

theorem witness_InterpBlendsFromATowardY : (OperandA.mem 0x0100#16) = .mem 0x0100#16 := rfl

theorem witness_SkipIsANoOp :
    ((OperandA.acc = .acc ∨ ∃ b, OperandA.acc = .mem b ∧ coreOwned (busAddr b)) ∧ coreOwned (busAddr 0x0102#16)) ∧
    ((OperandA.mem 0x0101#16 = .acc ∨ ∃ b, OperandA.mem 0x0101#16 = .mem b ∧ coreOwned (busAddr b)) ∧
      coreOwned (busAddr 0xFFFF#16)) :=
  ⟨⟨.inl rfl, trivial⟩, .inr ⟨_, rfl, trivial⟩, trivial⟩

theorem witness_ExpUndoesLogAtSomePositiveValue (v x y : Word) :
    ∃ s : State, s.gpr[1] = v ∧ s.gpr[2] = x ∧ s.gpr[3] = y :=
  ⟨start v x y 0, by simp [start], by simp [start], by simp [start]⟩

theorem witness_ReferenceRoundTripIsExactWhereNoBitIsLost :
    (0 < (0x00000001#32).toInt ∧ (0#32).toNat % 4 ≠ 3) ∧ 0 < (0x7FFFFFFF#32).toInt ∧ (2#32).toNat % 4 ≠ 3 := by decide

theorem witness_ReferenceLogIsMonotone :
    0 ≤ (0x00000000#32).toInt ∧ (0x00000000#32).toInt ≤ (0x7FFFFFFF#32).toInt ∧ (1#32).toNat % 4 < 2 := by decide

end Sys2Proof.Tests
end

section
/-! The state family: what an instruction, a host call and a step can do to the state, and from that O9 (every step
keeps the invariant) and O7 (a step runs the decoded instruction). -/

namespace Sys2Proof.Machine

variable {s t : State}

/-! ### What an access leaves of the store, the program and the phase -/

@[simp] theorem State.withEvents_itram (s : State) (l : List Event) : (s.withEvents l).itram = s.itram := rfl
@[simp] theorem State.withEvents_program (s : State) (l : List Event) : (s.withEvents l).program = s.program := rfl
@[simp] theorem State.withEvents_phase (s : State) (l : List Event) : (s.withEvents l).phase = s.phase := rfl

/-- A read keeps the store: its one effect is a record of the access. -/
@[simp] theorem busTouch_itram (a : Int) (s : State) : (busTouch a s).itram = s.itram := by
  obtain ⟨l, h⟩ := busTouch_events a s
  simp [h]

@[simp] theorem busTouch_program (a : Int) (s : State) : (busTouch a s).program = s.program := by
  obtain ⟨l, h⟩ := busTouch_events a s
  simp [h]

@[simp] theorem busTouch_phase (a : Int) (s : State) : (busTouch a s).phase = s.phase := by
  obtain ⟨l, h⟩ := busTouch_events a s
  simp [h]

/-- The store after a bus write: as it was, or with one word written. -/
theorem busWrite_itram (a : Int) (v : Word) (s : State) :
    (busWrite a v s).itram = s.itram ∨ ∃ e, (busWrite a v s).itram = itramWrite s.itram e v := by
  obtain h | ⟨p, i, h⟩ | ⟨-, h⟩ | ⟨i, -, h⟩ | ⟨i, -, h⟩ | ⟨i, -, h⟩ | ⟨i, e, -, -, h⟩ := busWrite_cases a v s
  case inr.inr.inr.inr.inr.inr => exact .inr ⟨e, by simp [h]⟩
  all_goals exact .inl (by simp [h])

/-- No bus address names the program (20_memory R74). -/
@[simp] theorem busWrite_program (a : Int) (v : Word) (s : State) : (busWrite a v s).program = s.program := by
  obtain h | ⟨p, i, h⟩ | ⟨-, h⟩ | ⟨i, -, h⟩ | ⟨i, -, h⟩ | ⟨i, -, h⟩ | ⟨i, e, -, -, h⟩ := busWrite_cases a v s <;>
    simp [h]

/-- No bus address names the index. -/
@[simp] theorem busWrite_phase (a : Int) (v : Word) (s : State) : (busWrite a v s).phase = s.phase := by
  obtain h | ⟨p, i, h⟩ | ⟨-, h⟩ | ⟨i, -, h⟩ | ⟨i, -, h⟩ | ⟨i, -, h⟩ | ⟨i, e, -, -, h⟩ := busWrite_cases a v s <;>
    simp [h]

@[simp] theorem writeBack_program (r : Addr) (res : Option Word) (s : State) :
    (writeBack r res s).program = s.program := by
  obtain h | ⟨v, -, h⟩ := writeBack_cases r res s <;> simp [h]

@[simp] theorem writeBack_phase (r : Addr) (res : Option Word) (s : State) :
    (writeBack r res s).phase = s.phase := by
  obtain h | ⟨v, -, h⟩ := writeBack_cases r res s <;> simp [h]

/-! ### What an instruction, a host call and a step can do -/

/-- Everything an instruction can do: it records accesses, sets the accumulator and writes back, and never fails. -/
theorem exec_next_writeBack (i : Instr) (s : State) :
    ∃ l c res, exec i s = .next (writeBack i.fields.r res ((s.withEvents l).setAcc c)) := by
  obtain ⟨l, hl⟩ := fetch_events i.fields.a i.fields.x i.fields.y s
  rw [exec_eq_cycle, cycle_next, hl]
  exact ⟨l, _, _, rfl⟩

theorem exec_program {i : Instr} (h : exec i s = .next t) : t.program = s.program := by
  obtain ⟨l, c, res, he⟩ := exec_next_writeBack i s
  cases he.symm.trans h
  simp

theorem exec_phase {i : Instr} (h : exec i s = .next t) : t.phase = s.phase := by
  obtain ⟨l, c, res, he⟩ := exec_next_writeBack i s
  cases he.symm.trans h
  simp

/-- The state a host call leaves when it is made between ticks (60_exceptions R227). -/
def hostEffect (c : HostCall) (s : State) : State :=
  match c with
  | .peek a => (busTouch a s).logReply (.word (busValue a s))
  | .poke a v => busWrite a v s
  | .accRead => s.logReply (.acc s.acc.read)
  | .accWrite v => s.setAcc (Accumulator.write v.toInt)
  | .loadProgram p => s.setProgram p
  | .tick => startTick s

theorem hostCall_idle (c : HostCall) (h : s.phase = .idle) : hostCall c s = .next (hostEffect c s) := by
  cases c <;> simp only [hostCall, h, hostEffect]

theorem duringTick_word {ip : Nat} {w : InstrWord} (hw : s.program.words[ip]? = some w) :
    duringTick ip s = advance ip (exec (decode w) s) := by
  simp only [duringTick, hw]

theorem duringTick_end {ip : Nat} (hw : s.program.words[ip]? = none) : duringTick ip s = .next (endTick s) := by
  simp only [duringTick, hw]

theorem betweenTicks_nil (h : s.host = []) : betweenTicks s = .next s := by
  simp only [betweenTicks, h]

theorem betweenTicks_cons {c : HostCall} {rest : List HostCall} (hp : s.phase = .idle) (h : s.host = c :: rest) :
    betweenTicks s = .next (hostEffect c (s.setHost rest)) := by
  simp only [betweenTicks, h]
  exact hostCall_idle c (by simp [hp])

/-- Everything a step can do: an instruction of a tick, a tick's end, nothing, or a call of the host. -/
theorem step_cases (h : step s = .next t) :
    (∃ ip w u, s.phase = .running ip ∧ s.program.words[ip]? = some w ∧ exec (decode w) s = .next u ∧
      t = u.setPhase (.running (ip + 1))) ∨
    (∃ ip, s.phase = .running ip ∧ s.program.words[ip]? = none ∧ t = endTick s) ∨
    (s.phase = .idle ∧ s.host = [] ∧ t = s) ∨
    (∃ c rest, s.phase = .idle ∧ s.host = c :: rest ∧ t = hostEffect c (s.setHost rest)) := by
  cases hp : s.phase with
  | running ip =>
    rw [step_running hp] at h
    cases hw : s.program.words[ip]? with
    | some w =>
      obtain ⟨l, c, res, he⟩ := exec_next_writeBack (decode w) s
      rw [duringTick_word hw, he] at h
      cases h
      exact .inl ⟨ip, w, _, rfl, hw, he, rfl⟩
    | none =>
      rw [duringTick_end hw] at h
      cases h
      exact .inr (.inl ⟨ip, rfl, hw, rfl⟩)
  | idle =>
    rw [step_idle hp] at h
    cases hc : s.host with
    | nil =>
      rw [betweenTicks_nil hc] at h
      cases h
      exact .inr (.inr (.inl ⟨rfl, rfl, rfl⟩))
    | cons c rest =>
      rw [betweenTicks_cons hp hc] at h
      cases h
      exact .inr (.inr (.inr ⟨c, rest, rfl, rfl, rfl⟩))

/-! ### The invariant -/

/-- The store's part of the invariant passes to any state with the same store. -/
theorem State.Inv.of_itram_eq (h : s.Inv) (hm : t.itram = s.itram)
    (hi : ∀ ip, t.phase = .running ip → ip ≤ t.program.words.length) : t.Inv where
  memoryCanonical := by rw [hm]; exact h.memoryCanonical
  memoryInStore := by rw [hm]; exact h.memoryInStore
  indexInProgram := hi

/-- Only the store, the phase and the program matter to the invariant. -/
theorem State.Inv.congr (h : s.Inv) (hm : t.itram = s.itram) (hp : t.phase = s.phase)
    (hw : t.program = s.program) : t.Inv :=
  h.of_itram_eq hm (by rw [hp, hw]; exact h.indexInProgram)

/-- Between ticks there is no index to bound. -/
theorem State.Inv.of_idle (h : s.Inv) (hm : t.itram = s.itram) (hp : t.phase = .idle) : t.Inv :=
  h.of_itram_eq hm (by simp [hp])

theorem busWrite_inv (a : Int) (v : Word) (h : s.Inv) : (busWrite a v s).Inv := by
  obtain hm | ⟨e, hm⟩ := busWrite_itram a v s
  · exact h.congr hm (busWrite_phase a v s) (busWrite_program a v s)
  · exact {
      memoryCanonical := by rw [hm]; exact itramWrite_wf e v h.memoryCanonical
      memoryInStore := by rw [hm]; exact itramWrite_within e v h.memoryInStore
      indexInProgram := by simpa using h.indexInProgram }

theorem writeBack_inv (r : Addr) (res : Option Word) (h : s.Inv) : (writeBack r res s).Inv := by
  obtain hr | ⟨v, -, hr⟩ := writeBack_cases r res s <;> rw [hr]
  · exact h
  · exact busWrite_inv _ v h

/-- Every instruction keeps the invariant, with the index where it was. -/
theorem exec_inv {i : Instr} (h : s.Inv) (he : exec i s = .next t) : t.Inv := by
  obtain ⟨l, c, res, he'⟩ := exec_next_writeBack i s
  cases he'.symm.trans he
  have hcycle : ((s.withEvents l).setAcc c).Inv := h.congr rfl rfl rfl
  exact writeBack_inv _ res hcycle

/-- Moving the index past a word of the program keeps it in the program. -/
theorem exec_advance_inv {ip : Nat} {w : InstrWord} (h : s.Inv) (hw : s.program.words[ip]? = some w)
    (he : exec (decode w) s = .next t) : (t.setPhase (.running (ip + 1))).Inv := by
  refine (exec_inv h he).of_itram_eq rfl fun ip' hip => ?_
  obtain ⟨hlt, -⟩ := List.getElem?_eq_some_iff.mp hw
  cases hip
  rw [State.setPhase_program, exec_program he]
  exact hlt

/-- Every host call made between ticks keeps the invariant: `poke` by the bus write's, `tick` because its index is
0, and the others because they leave the store as it is and begin no tick. -/
theorem hostEffect_inv (c : HostCall) (hp : s.phase = .idle) (h : s.Inv) : (hostEffect c s).Inv := by
  cases c with
  | peek a => exact h.of_idle (by simp [hostEffect]) (by simp [hostEffect, hp])
  | poke a v => exact busWrite_inv a v h
  | accRead => exact h.of_idle rfl hp
  | accWrite v => exact h.of_idle rfl hp
  | loadProgram p => exact h.of_idle rfl hp
  | tick =>
    refine h.of_itram_eq rfl fun ip hip => ?_
    cases hip
    exact Nat.zero_le _

/-- Settles O9, by the cases of a step. -/
theorem stepKeepsTheInvariant : Obligations.StepKeepsTheInvariant := by
  intro s t h hstep
  obtain ⟨ip, w, u, -, hw, he, rfl⟩ | ⟨ip, -, -, rfl⟩ | ⟨-, -, rfl⟩ | ⟨c, rest, hp, -, rfl⟩ := step_cases hstep
  · exact exec_advance_inv h hw he
  · exact h.of_idle rfl rfl
  · exact h
  · exact hostEffect_inv c hp (h.congr rfl rfl rfl)

/-! ### The step of a tick -/

theorem step_of_word {ip : Nat} {w : InstrWord} (hp : s.phase = .running ip) (hw : s.program.words[ip]? = some w)
    (he : exec (decode w) s = .next t) : step s = .next (t.setPhase (.running (ip + 1))) := by
  rw [step_running hp, duringTick_word hw, he, advance]

theorem nextIndex_le_length (s : State) : nextIndex s ≤ s.program.words.length := by
  unfold nextIndex
  split
  · exact Nat.zero_le _
  · exact Nat.min_le_right _ _

theorem withFetchWord_phase (s : State) (nbits w : Nat) :
    (s.withFetchWord nbits w).phase = .running (nextIndex s) := rfl

/-- The word that `withFetchWord` places stands at the index of the next instruction. -/
theorem withFetchWord_word (s : State) (nbits w : Nat) :
    (s.withFetchWord nbits w).program.words[nextIndex s]? = some (BitVec.ofNat 72 (w % 2 ^ nbits)) := by
  have hlen : (s.program.words.take (nextIndex s)).length = nextIndex s :=
    List.length_take_of_le (nextIndex_le_length s)
  simp [State.withFetchWord, placeWord, hlen]

/-- Settles O7: each clause is the running step at an index that holds a word, or at one past the last. -/
theorem stepRunsTheDecodedInstruction : Obligations.StepRunsTheDecodedInstruction := by
  refine ⟨fun s t ip w hp hw he => step_of_word hp hw he, fun s nbits w t he => ?_, fun s ip hp hw => ?_⟩
  · exact step_of_word (withFetchWord_phase s nbits w) (withFetchWord_word s nbits w) he
  · rw [step_running hp, duringTick_end hw]

end Sys2Proof.Machine
end

section
/-! The register bus: the address map region by region, the tree of Split banks, what an access of each region reads
and writes, and from these the statements of 20_memory. -/

namespace Sys2Proof.Machine

variable {s : State}

/-! ### Array and Indirect banks -/

section Arrays

variable {n : Nat} (store : Vector Word n) (v tick : Word)

theorem arrayRead_of_inRange {a : Int} (h : 0 ≤ a ∧ a.toNat < n) : arrayRead store a = store[a.toNat]'h.2 := dif_pos h

theorem arrayRead_of_outOfRange {a : Int} (h : ¬ (0 ≤ a ∧ a.toNat < n)) : arrayRead store a = 0#32 := dif_neg h

theorem arrayWrite_of_inRange {a : Int} (h : 0 ≤ a ∧ a.toNat < n) : arrayWrite store a v = store.set a.toNat v h.2 :=
  dif_pos h

theorem arrayWrite_of_outOfRange {a : Int} (h : ¬ (0 ≤ a ∧ a.toNat < n)) : arrayWrite store a v = store := dif_neg h

theorem indirectAddr_of_inRange {a : Int} (h : 0 ≤ a ∧ a.toNat < n) :
    indirectAddr store tick a = some ((tick.toInt + (store[a.toNat]'h.2).toInt).bmod (2 ^ 32)) := by
  unfold indirectAddr
  rw [dif_pos h, wrap_32_eq_bmod]
  rfl

theorem indirectAddr_of_outOfRange {a : Int} (h : ¬ (0 ≤ a ∧ a.toNat < n)) : indirectAddr store tick a = none :=
  dif_neg h

variable {i : Nat} (h : i < n)

theorem arrayRead_natCast : arrayRead store (i : Int) = store[i] := arrayRead_of_inRange store ⟨Int.natCast_nonneg i, h⟩

theorem arrayWrite_natCast : arrayWrite store (i : Int) v = store.set i v :=
  arrayWrite_of_inRange store v ⟨Int.natCast_nonneg i, h⟩

theorem indirectAddr_natCast :
    indirectAddr store tick (i : Int) = some ((tick.toInt + store[i].toInt).bmod (2 ^ 32)) :=
  indirectAddr_of_inRange store tick ⟨Int.natCast_nonneg i, h⟩

/-- Registers that differ by `d` give effective addresses `d` apart, modulo 2^32. -/
theorem indirectAddr_shift {j : Nat} (h' : j < n) {d : Int} (hd : store[j].toInt = store[i].toInt + d) :
    ∃ e, indirectAddr store tick (i : Int) = some e ∧ indirectAddr store tick (j : Int) = some ((e + d).bmod (2 ^ 32)) := by
  refine ⟨_, indirectAddr_natCast store tick h, ?_⟩
  rw [indirectAddr_natCast store tick h', hd, Int.bmod_add_bmod, Int.add_assoc]

theorem arrayRead_arrayWrite_same {a : Int} (h : 0 ≤ a ∧ a.toNat < n) : arrayRead (arrayWrite store a v) a = v := by
  rw [arrayRead_of_inRange _ h, arrayWrite_of_inRange store v h, Vector.getElem_set_self]

end Arrays

/-- Settles O30: the range test of each bank is the statement's case. -/
theorem arrayAndIndirectBanks : Obligations.ArrayAndIndirectBanks := fun _ store _ v tick =>
  ⟨fun h => ⟨arrayRead_of_inRange store h, arrayWrite_of_inRange store v h, indirectAddr_of_inRange store tick h⟩,
    fun h => ⟨arrayRead_of_outOfRange store h, arrayWrite_of_outOfRange store v h, indirectAddr_of_outOfRange store tick h⟩⟩

/-! ### The map, region by region (20_memory R57) -/

section Map

variable {i : Int}

/-- The four I/O regions of sixteen addresses: first address and collaborator (20_memory R59). -/
def ioRegions : List (Int × Port) := [((0x00 : Int), Port.fxIn), (0x10, .extIn), (0x20, .extOut), (0x30, .fx2)]

theorem mem_ioRegions {base : Int} {p : Port} :
    (base, p) ∈ ioRegions ↔
      (base = 0x00 ∧ p = .fxIn) ∨ (base = 0x10 ∧ p = .extIn) ∨ (base = 0x20 ∧ p = .extOut) ∨
        (base = 0x30 ∧ p = .fx2) := by
  simp [ioRegions]

theorem busMap_port {base : Int} {p : Port}
    (hp : (base, p) ∈ ioRegions)
    (h : 0 ≤ i) (h' : i < 16) : busMap (base + i) = (.port p, i) := by
  obtain ⟨rfl, rfl⟩ | ⟨rfl, rfl⟩ | ⟨rfl, rfl⟩ | ⟨rfl, rfl⟩ := mem_ioRegions.mp hp
  · simp (disch := omega) only [busMap, if_neg, if_pos, zero_add]
  all_goals simp (disch := omega) only [busMap, if_neg, if_pos, add_sub_cancel_left]

theorem busMap_sys (h : 0 ≤ i) (h' : i < 64) : busMap (0x40 + i) = (.sys, i) := by
  simp (disch := omega) only [busMap, if_neg, if_pos, add_sub_cancel_left]

theorem busMap_gpr (h : 0 ≤ i) (h' : i < 256) : busMap (0x100 + i) = (.gpr, i) := by
  simp (disch := omega) only [busMap, if_neg, if_pos, add_sub_cancel_left]

theorem busMap_itramWindow (h : 0 ≤ i) (h' : i < 128) : busMap (0x200 + i) = (.itramWindow, i) := by
  simp (disch := omega) only [busMap, if_neg, if_pos, add_sub_cancel_left]

theorem busMap_xtramWindow (h : 0 ≤ i) (h' : i < 128) : busMap (0x280 + i) = (.xtramWindow, i) := by
  simp (disch := omega) only [busMap, if_neg, if_pos, add_sub_cancel_left]

theorem busMap_itramAddr (h : 0 ≤ i) (h' : i < 128) : busMap (0x300 + i) = (.itramAddr, i) := by
  simp (disch := omega) only [busMap, if_neg, if_pos, add_sub_cancel_left]

theorem busMap_xtramAddr (h : 0 ≤ i) (h' : i < 128) : busMap (0x380 + i) = (.xtramAddr, i) := by
  simp (disch := omega) only [busMap, if_neg, if_pos, add_sub_cancel_left]

/-- The reserved regions (20_memory R66) and everything outside 16 bits (20_memory R67). -/
theorem busMap_empty {a : Int} (h : a < 0 ∨ (0x80 ≤ a ∧ a ≤ 0xFF) ∨ 0x400 ≤ a) : busMap a = (.empty, a) := by
  obtain h | ⟨h, h'⟩ | h := h <;> simp (disch := omega) only [busMap, if_neg, if_pos]

/-- Every address lies in one region of the map, at an index the region has, or selects the empty bank. -/
theorem busAddress_cases (a : Int) :
    (a < 0 ∨ (0x80 ≤ a ∧ a ≤ 0xFF) ∨ 0x400 ≤ a) ∨
    (∃ base p i, (base, p) ∈ ioRegions ∧
      a = base + i ∧ 0 ≤ i ∧ i < 16) ∨
    (∃ i, a = 0x40 + i ∧ 0 ≤ i ∧ i < 64) ∨ (∃ i, a = 0x100 + i ∧ 0 ≤ i ∧ i < 256) ∨
    (∃ i, a = 0x200 + i ∧ 0 ≤ i ∧ i < 128) ∨ (∃ i, a = 0x280 + i ∧ 0 ≤ i ∧ i < 128) ∨
    (∃ i, a = 0x300 + i ∧ 0 ≤ i ∧ i < 128) ∨ (∃ i, a = 0x380 + i ∧ 0 ≤ i ∧ i < 128) := by
  by_cases he : a < 0 ∨ (0x80 ≤ a ∧ a ≤ 0xFF) ∨ 0x400 ≤ a
  · exact .inl he
  refine .inr ?_
  by_cases hp : a < 0x40
  · refine .inl ?_
    obtain h | h | h | h : a < 0x10 ∨ 0x10 ≤ a ∧ a < 0x20 ∨ 0x20 ≤ a ∧ a < 0x30 ∨ 0x30 ≤ a := by omega
    · exact ⟨0x00, .fxIn, a, by decide, by omega⟩
    · exact ⟨0x10, .extIn, a - 0x10, by decide, by omega⟩
    · exact ⟨0x20, .extOut, a - 0x20, by decide, by omega⟩
    · exact ⟨0x30, .fx2, a - 0x30, by decide, by omega⟩
  refine .inr ?_
  by_cases hs : a < 0x80
  · exact .inl ⟨a - 0x40, by omega⟩
  refine .inr ?_
  by_cases hg : a < 0x200
  · exact .inl ⟨a - 0x100, by omega⟩
  refine .inr ?_
  by_cases hi : a < 0x280
  · exact .inl ⟨a - 0x200, by omega⟩
  refine .inr ?_
  by_cases hx : a < 0x300
  · exact .inl ⟨a - 0x280, by omega⟩
  refine .inr ?_
  by_cases hr : a < 0x380
  · exact .inl ⟨a - 0x300, by omega⟩
  · exact .inr ⟨a - 0x380, by omega⟩

end Map

/-! ### The tree of Split banks (20_memory R53, R58) -/

@[simp] theorem Bank.route_leaf (l : Leaf) (a : Int) : (Bank.leaf l).route a = (l, a) := by rw [Bank.route]

theorem Bank.routeChild_of_getElem? {b : Bank} :
    ∀ {children : List Bank} {k : Nat}, children[k]? = some b → ∀ low, Bank.routeChild children k low = b.route low
  | [], _, h, _ => by simp at h
  | _ :: _, 0, h, low => by
    cases h
    rw [Bank.routeChild]
  | _ :: rest, k + 1, h, low => by
    rw [Bank.routeChild]
    exact Bank.routeChild_of_getElem? (children := rest) (by simpa using h) low

/-- A Split bank forwards word `i` of its child `k` to that child. -/
theorem Bank.route_split {sel low : Nat} {children : List Bank} {b : Bank} {a : Int} (k : Nat) (i : Int)
    (hb : children[k]? = some b) (hk : k < 2 ^ sel)
    (ha : a = (k : Int) * ((2 ^ low : Nat) : Int) + i ∧ 0 ≤ i ∧ i < ((2 ^ low : Nat) : Int)) :
    (Bank.split sel low children).route a = b.route i := by
  obtain ⟨rfl, hi, hi'⟩ := ha
  have hquot : asr ((k : Int) * ((2 ^ low : Nat) : Int) + i) low = (k : Int) := by
    rw [asr, add_comm, Int.add_mul_ediv_right _ _ (by omega), Int.ediv_eq_zero_of_lt hi hi', zero_add]
  have hrem : ((k : Int) * ((2 ^ low : Nat) : Int) + i) % ((2 ^ low : Nat) : Int) = i := by
    rw [add_comm, Int.add_mul_emod_self_right, Int.emod_eq_of_lt hi hi']
  have hnonneg : ¬ (k : Int) * ((2 ^ low : Nat) : Int) + i < 0 := not_lt.mpr (by positivity)
  have hsel : ¬ ((2 ^ sel : Nat) : Int) ≤ (k : Int) := by omega
  rw [Bank.route, hquot, hrem, if_neg (not_or.mpr ⟨hnonneg, hsel⟩), Int.toNat_natCast]
  exact Bank.routeChild_of_getElem? hb _

theorem Bank.route_split_outOfRange {sel low : Nat} {children : List Bank} {a : Int}
    (h : a < 0 ∨ ((2 ^ sel : Nat) : Int) ≤ asr a low) : (Bank.split sel low children).route a = (.empty, a) := by
  rw [Bank.route, if_pos h]

/-- The subtree over 0x00..0x3F: the collaborators' banks. -/
def ioBanks : Bank :=
  .split 2 4 [.leaf (.port .fxIn), .leaf (.port .extIn), .leaf (.port .extOut), .leaf (.port .fx2)]

/-- The subtree over 0x00..0xFF. -/
def systemBanks : Bank := .split 2 6 [ioBanks, .leaf .sys, .leaf .empty, .leaf .empty]

/-- The subtree over 0x200..0x2FF. -/
def windowBanks : Bank := .split 1 7 [.leaf .itramWindow, .leaf .xtramWindow]

/-- The subtree over 0x300..0x3FF. -/
def addressBanks : Bank := .split 1 7 [.leaf .itramAddr, .leaf .xtramAddr]

/-- The subtree over 0x000..0x3FF: all that the tree's root selects besides empty banks. -/
def assignedBanks : Bank := .split 2 8 [systemBanks, .leaf .gpr, windowBanks, addressBanks]

theorem busTree_eq : busTree = .split 6 10 (assignedBanks :: List.replicate 63 (.leaf .empty)) := rfl

theorem busTree_route_assigned {a : Int} (h : 0 ≤ a) (h' : a ≤ 0x3FF) : busTree.route a = assignedBanks.route a := by
  rw [busTree_eq, Bank.route_split 0 a rfl (by decide) (by omega)]

/-- Above 0x3FF the root selects an empty bank, or nothing where the address has more than 16 bits. -/
theorem busTree_route_unassigned {a : Int} (h : a < 0 ∨ 0x400 ≤ a) : (busTree.route a).1 = .empty := by
  rw [busTree_eq]
  by_cases hr : a < 0 ∨ 0x10000 ≤ a
  · rw [Bank.route_split_outOfRange (by unfold asr; omega)]
  · have hb : (assignedBanks :: List.replicate 63 (.leaf .empty))[(a / 1024).toNat]? = some (.leaf .empty) := by
      rw [show (a / 1024).toNat = ((a / 1024).toNat - 1) + 1 by omega, List.getElem?_cons_succ,
        List.getElem?_replicate, if_pos (by omega)]
    rw [Bank.route_split (a / 1024).toNat (a % 1024) hb (by omega) (by omega), Bank.route_leaf]

section Route

variable {i : Int}

theorem busTree_route_system (h : 0 ≤ i) (h' : i < 256) : busTree.route i = systemBanks.route i := by
  rw [busTree_route_assigned (by omega) (by omega), assignedBanks, Bank.route_split 0 i rfl (by decide) (by omega)]

theorem busTree_route_port {base : Int} {p : Port}
    (hp : (base, p) ∈ ioRegions)
    (h : 0 ≤ i) (h' : i < 16) : busTree.route (base + i) = (.port p, i) := by
  have hbase := mem_ioRegions.mp hp
  have hio : busTree.route (base + i) = ioBanks.route (base + i) := by
    rw [busTree_route_system (by omega) (by omega), systemBanks,
      Bank.route_split 0 (base + i) rfl (by decide) (by omega)]
  rw [hio, ioBanks]
  obtain ⟨rfl, rfl⟩ | ⟨rfl, rfl⟩ | ⟨rfl, rfl⟩ | ⟨rfl, rfl⟩ := hbase
  · rw [Bank.route_split 0 i rfl (by decide) (by omega), Bank.route_leaf]
  · rw [Bank.route_split 1 i rfl (by decide) (by omega), Bank.route_leaf]
  · rw [Bank.route_split 2 i rfl (by decide) (by omega), Bank.route_leaf]
  · rw [Bank.route_split 3 i rfl (by decide) (by omega), Bank.route_leaf]

theorem busTree_route_sys (h : 0 ≤ i) (h' : i < 64) : busTree.route (0x40 + i) = (.sys, i) := by
  rw [busTree_route_system (by omega) (by omega), systemBanks, Bank.route_split 1 i rfl (by decide) (by omega),
    Bank.route_leaf]

/-- The upper half of the system page is two empty banks (20_memory R66). -/
theorem busTree_route_reserved {a : Int} (h : 0x80 ≤ a ∧ a ≤ 0xFF) : (busTree.route a).1 = .empty := by
  rw [busTree_route_system (by omega) (by omega), systemBanks]
  by_cases ha : a < 0xC0
  · rw [Bank.route_split 2 (a - 0x80) rfl (by decide) (by omega), Bank.route_leaf]
  · rw [Bank.route_split 3 (a - 0xC0) rfl (by decide) (by omega), Bank.route_leaf]

theorem busTree_route_gpr (h : 0 ≤ i) (h' : i < 256) : busTree.route (0x100 + i) = (.gpr, i) := by
  rw [busTree_route_assigned (by omega) (by omega), assignedBanks, Bank.route_split 1 i rfl (by decide) (by omega),
    Bank.route_leaf]

theorem busTree_route_itramWindow (h : 0 ≤ i) (h' : i < 128) : busTree.route (0x200 + i) = (.itramWindow, i) := by
  rw [busTree_route_assigned (by omega) (by omega), assignedBanks, Bank.route_split 2 i rfl (by decide) (by omega),
    windowBanks, Bank.route_split 0 i rfl (by decide) (by omega), Bank.route_leaf]

theorem busTree_route_xtramWindow (h : 0 ≤ i) (h' : i < 128) : busTree.route (0x280 + i) = (.xtramWindow, i) := by
  rw [busTree_route_assigned (by omega) (by omega), assignedBanks,
    Bank.route_split 2 (0x80 + i) rfl (by decide) (by omega), windowBanks,
    Bank.route_split 1 i rfl (by decide) (by omega), Bank.route_leaf]

theorem busTree_route_itramAddr (h : 0 ≤ i) (h' : i < 128) : busTree.route (0x300 + i) = (.itramAddr, i) := by
  rw [busTree_route_assigned (by omega) (by omega), assignedBanks, Bank.route_split 3 i rfl (by decide) (by omega),
    addressBanks, Bank.route_split 0 i rfl (by decide) (by omega), Bank.route_leaf]

theorem busTree_route_xtramAddr (h : 0 ≤ i) (h' : i < 128) : busTree.route (0x380 + i) = (.xtramAddr, i) := by
  rw [busTree_route_assigned (by omega) (by omega), assignedBanks,
    Bank.route_split 3 (0x80 + i) rfl (by decide) (by omega), addressBanks,
    Bank.route_split 1 i rfl (by decide) (by omega), Bank.route_leaf]

end Route

/-- Addresses that the map gives to no bank. -/
theorem busTree_route_empty {a : Int} (h : a < 0 ∨ (0x80 ≤ a ∧ a ≤ 0xFF) ∨ 0x400 ≤ a) :
    (busTree.route a).1 = .empty := by
  obtain h | h | h := h
  · exact busTree_route_unassigned (.inl h)
  · exact busTree_route_reserved h
  · exact busTree_route_unassigned (.inr h)

/-- The tree and the map select the same bank and index, or both the empty bank, where the indices may differ. -/
theorem busTree_route_cases (a : Int) :
    busTree.route a = busMap a ∨ ((busTree.route a).1 = .empty ∧ (busMap a).1 = .empty) := by
  obtain he | ⟨base, p, i, hp, rfl, h, h'⟩ | ⟨i, rfl, h, h'⟩ | ⟨i, rfl, h, h'⟩ | ⟨i, rfl, h, h'⟩ | ⟨i, rfl, h, h'⟩ |
    ⟨i, rfl, h, h'⟩ | ⟨i, rfl, h, h'⟩ := busAddress_cases a
  · exact .inr ⟨busTree_route_empty he, by rw [busMap_empty he]⟩
  · exact .inl ((busTree_route_port hp h h').trans (busMap_port hp h h').symm)
  · exact .inl ((busTree_route_sys h h').trans (busMap_sys h h').symm)
  · exact .inl ((busTree_route_gpr h h').trans (busMap_gpr h h').symm)
  · exact .inl ((busTree_route_itramWindow h h').trans (busMap_itramWindow h h').symm)
  · exact .inl ((busTree_route_xtramWindow h h').trans (busMap_xtramWindow h h').symm)
  · exact .inl ((busTree_route_itramAddr h h').trans (busMap_itramAddr h h').symm)
  · exact .inl ((busTree_route_xtramAddr h h').trans (busMap_xtramAddr h h').symm)

/-- Settles O20: equal selections give equal accesses, and no access of the empty bank uses its index. -/
theorem bankTreeEqualsTheMap : Obligations.BankTreeEqualsTheMap := by
  intro a v s
  unfold busValue busTouch busWrite
  obtain h | ⟨htree, hmap⟩ := busTree_route_cases a
  · rw [h]
    exact ⟨rfl, rfl, rfl⟩
  · rw [htree, hmap]
    exact ⟨rfl, rfl, rfl⟩

/-! ### What an access of each region reads and writes -/

section Accesses

variable {i : Int} (v : Word) (s : State)

section Ports

variable {base : Int} {p : Port} (hp : (base, p) ∈ ioRegions)
include hp

theorem busValue_port (h : 0 ≤ i) (h' : i < 16) : busValue (base + i) s = portValue p i s := by
  rw [busValue, busMap_port hp h h', leafValue]

theorem busTouch_port (h : 0 ≤ i) (h' : i < 16) :
    busTouch (base + i) s = s.logEvent (.read p i (portValue p i s)) := by
  rw [busTouch, busMap_port hp h h', leafTouch]

theorem busWrite_port (h : 0 ≤ i) (h' : i < 16) : busWrite (base + i) v s = s.logEvent (.write p i v) := by
  rw [busWrite, busMap_port hp h h', leafWrite]

end Ports

theorem busValue_sys (h : 0 ≤ i) (h' : i < 64) : busValue (0x40 + i) s = sysRead i s := by
  rw [busValue, busMap_sys h h', leafValue]

theorem busTouch_sys (h : 0 ≤ i) (h' : i < 64) : busTouch (0x40 + i) s = s := by
  rw [busTouch, busMap_sys h h', leafTouch]

theorem busWrite_sys (h : 0 ≤ i) (h' : i < 64) : busWrite (0x40 + i) v s = sysWrite i v s := by
  rw [busWrite, busMap_sys h h', leafWrite]

theorem busValue_gpr (h : 0 ≤ i) (h' : i < 256) : busValue (0x100 + i) s = arrayRead s.gpr i := by
  rw [busValue, busMap_gpr h h', leafValue]

theorem busWrite_gpr (h : 0 ≤ i) (h' : i < 256) : busWrite (0x100 + i) v s = s.setGpr (arrayWrite s.gpr i v) := by
  rw [busWrite, busMap_gpr h h', leafWrite]

theorem busValue_itramAddr (h : 0 ≤ i) (h' : i < 128) : busValue (0x300 + i) s = arrayRead s.itramAddr i := by
  rw [busValue, busMap_itramAddr h h', leafValue]

theorem busWrite_itramAddr (h : 0 ≤ i) (h' : i < 128) :
    busWrite (0x300 + i) v s = s.setItramAddr (arrayWrite s.itramAddr i v) := by
  rw [busWrite, busMap_itramAddr h h', leafWrite]

theorem busValue_xtramAddr (h : 0 ≤ i) (h' : i < 128) : busValue (0x380 + i) s = arrayRead s.xtramAddr i := by
  rw [busValue, busMap_xtramAddr h h', leafValue]

theorem busWrite_xtramAddr (h : 0 ≤ i) (h' : i < 128) :
    busWrite (0x380 + i) v s = s.setXtramAddr (arrayWrite s.xtramAddr i v) := by
  rw [busWrite, busMap_xtramAddr h h', leafWrite]

variable {e : Int}

/-- An ITRAM channel that points at word `e` reads that word of the store. -/
theorem busValue_itramWindow (h : 0 ≤ i) (h' : i < 128) (he : indirectAddr s.itramAddr s.tick i = some e) :
    busValue (0x200 + i) s = itramRead s.itram e := by
  simp only [busValue, busMap_itramWindow h h', leafValue, he]

theorem busWrite_itramWindow (h : 0 ≤ i) (h' : i < 128) (he : indirectAddr s.itramAddr s.tick i = some e) :
    busWrite (0x200 + i) v s = s.setItram (itramWrite s.itram e v) := by
  simp only [busWrite, busMap_itramWindow h h', leafWrite, he]

/-- An XTRAM channel that points at word `e` is an access of the collaborator's store at `e`. -/
theorem busValue_xtramWindow (h : 0 ≤ i) (h' : i < 128) (he : indirectAddr s.xtramAddr s.tick i = some e) :
    busValue (0x280 + i) s = portValue .xtram e s := by
  simp only [busValue, busMap_xtramWindow h h', leafValue, he]

theorem busTouch_xtramWindow (h : 0 ≤ i) (h' : i < 128) (he : indirectAddr s.xtramAddr s.tick i = some e) :
    busTouch (0x280 + i) s = s.logEvent (.read .xtram e (portValue .xtram e s)) := by
  simp only [busTouch, busMap_xtramWindow h h', leafTouch, he]

theorem busWrite_xtramWindow (h : 0 ≤ i) (h' : i < 128) (he : indirectAddr s.xtramAddr s.tick i = some e) :
    busWrite (0x280 + i) v s = s.logEvent (.write .xtram e v) := by
  simp only [busWrite, busMap_xtramWindow h h', leafWrite, he]

end Accesses

/-- Settles O24: the GPR region is an Array bank of 256 words. -/
theorem gprRegionReadsAndWrites : Obligations.GprRegionReadsAndWrites := by
  intro s i h v
  rw [busValue_gpr s (by omega) (by omega), busWrite_gpr v s (by omega) (by omega), arrayRead_natCast _ h,
    arrayWrite_natCast _ _ h]
  exact ⟨rfl, rfl⟩

/-- Settles O25: each address-register region is an Array bank, and the window's Indirect bank reads the register
just written. -/
theorem addressRegisterRegions : Obligations.AddressRegisterRegions := by
  intro s c h v
  have hc : (0 : Int) ≤ c := Int.natCast_nonneg c
  have hc' : (c : Int) < 128 := by omega
  rw [busValue_itramAddr s hc hc', busValue_xtramAddr s hc hc', busWrite_itramAddr v s hc hc',
    busWrite_xtramAddr v s hc hc', arrayRead_natCast _ h, arrayRead_natCast _ h, arrayWrite_natCast _ _ h,
    arrayWrite_natCast _ _ h]
  refine ⟨rfl, rfl, rfl, rfl, ?_, ?_⟩
  · rw [State.setItramAddr_itramAddr, indirectAddr_natCast _ _ h, Vector.getElem_set_self]
  · rw [State.setXtramAddr_xtramAddr, indirectAddr_natCast _ _ h, Vector.getElem_set_self]

/-! ### The system leaf (20_memory R60 to R62) -/

theorem sysRead_constant {o : Int} (h : 0 ≤ o) (h' : o < 22) (s : State) :
    sysRead o s = constantTable.getD o.toNat 0#32 := by
  rw [sysRead, if_neg (by omega), if_pos h']

theorem sysRead_reserved {o : Int} (h : 28 ≤ o) (s : State) : sysRead o s = 0#32 := by
  have hne : o ≠ sysAccum ∧ o ≠ sysCcr ∧ o ≠ sysNoise0 ∧ o ≠ sysNoise1 ∧ o ≠ sysIrq ∧ o ≠ sysTick := by
    unfold sysAccum sysCcr sysNoise0 sysNoise1 sysIrq sysTick
    omega
  rw [sysRead, if_neg (by omega), if_neg (by omega)]
  simp only [hne, if_false]

theorem sysWrite_tick (v : Word) (s : State) : sysWrite sysTick v s = s.setTick v := if_pos rfl

theorem sysWrite_other {o : Int} (h : o ≠ sysTick) (v : Word) (s : State) : sysWrite o v s = s := if_neg h

theorem busWrite_tick (v : Word) (s : State) : busWrite 0x5B v s = s.setTick v :=
  (busWrite_sys (i := sysTick) v s (by decide) (by decide)).trans (sysWrite_tick v s)

theorem busValue_tick (s : State) : busValue 0x5B s = s.tick :=
  busValue_sys (i := sysTick) s (by decide) (by decide)

theorem busValue_sysReserved {a : Int} (h : 0x5C ≤ a) (h' : a ≤ 0x7F) (s : State) : busValue a s = 0#32 := by
  obtain ⟨i, rfl⟩ : ∃ i, a = 0x40 + i := ⟨a - 0x40, by omega⟩
  rw [busValue_sys s (by omega) (by omega), sysRead_reserved (by omega)]

theorem busTouch_sysLeaf {a : Int} (h : 0x40 ≤ a) (h' : a ≤ 0x7F) (s : State) : busTouch a s = s := by
  obtain ⟨i, rfl⟩ : ∃ i, a = 0x40 + i := ⟨a - 0x40, by omega⟩
  exact busTouch_sys s (by omega) (by omega)

theorem busWrite_sysLeaf_of_ne_tick {a : Int} (h : 0x40 ≤ a) (h' : a ≤ 0x7F) (hne : a ≠ 0x5B) (v : Word) (s : State) :
    busWrite a v s = s := by
  obtain ⟨i, rfl⟩ : ∃ i, a = 0x40 + i := ⟨a - 0x40, by omega⟩
  rw [busWrite_sys v s (by omega) (by omega)]
  exact sysWrite_other (by unfold sysTick; omega) v s

/-- Settles O22: of the system leaf's offsets only TICK's takes a write. -/
theorem systemLeafWrites : Obligations.SystemLeafWrites := fun s v =>
  ⟨busWrite_tick v s, fun _ h h' hne => busWrite_sysLeaf_of_ne_tick h h' hne v s⟩

/-- The twenty-two constants are read at their offsets, whatever the state. -/
theorem busValue_constants (s : State) :
    (List.range 22).map (fun k : Nat => busValue (0x40 + (k : Int)) s) = constantTable := by
  have hread : ∀ k ∈ List.range 22, busValue (0x40 + (k : Int)) s = constantTable.getD k 0#32 := by
    intro k hk
    have hlt : k < 22 := List.mem_range.mp hk
    rw [busValue_sys s (by omega) (by omega), sysRead_constant (by omega) (by omega), Int.toNat_natCast]
  rw [List.map_congr_left hread]
  decide

/-- Settles O21: the constants by their table, the named registers each at its offset, the rest reserved. -/
theorem systemLeafReads : Obligations.SystemLeafReads := fun s =>
  ⟨busValue_constants s, rfl, rfl, rfl, rfl, rfl, busValue_tick s, fun _ h h' => busValue_sysReserved h h' s⟩

/-! ### Reserved addresses (20_memory R66, R67) -/

/-- Settles O23: the system leaf's reserved offsets by its own laws, every other address by the empty bank. -/
theorem reservedAddressesReadZeroAndDropWrites : Obligations.ReservedAddressesReadZeroAndDropWrites := by
  refine ⟨fun a v s h => ?_, rfl⟩
  by_cases hs : 0x5C ≤ a ∧ a ≤ 0x7F
  · obtain ⟨hlo, hhi⟩ := hs
    exact ⟨busValue_sysReserved hlo hhi s, busTouch_sysLeaf (by omega) hhi s,
      busWrite_sysLeaf_of_ne_tick (by omega) hhi (by omega) v s⟩
  · have hm : busMap a = (.empty, a) := busMap_empty (by omega)
    rw [busValue, busTouch, busWrite, hm]
    exact ⟨rfl, rfl, rfl⟩

/-! ### The collaborators and the transfer RAM -/

theorem portValue_of_inRange {p : Port} {i : Int} (h : 0 ≤ i ∧ i < portSize p) (s : State) :
    portValue p i s = Config.answer s.draws s.events p i := if_pos h

theorem portSize_of_mem_ioRegions {base : Int} {p : Port} (hp : (base, p) ∈ ioRegions) : portSize p = 16 := by
  obtain ⟨-, rfl⟩ | ⟨-, rfl⟩ | ⟨-, rfl⟩ | ⟨-, rfl⟩ := mem_ioRegions.mp hp <;> rfl

/-- Settles O27: each I/O region passes its index to one collaborator's bank of sixteen registers. -/
theorem ioRegionsPassThrough : Obligations.IoRegionsPassThrough := by
  intro s i v base p hi hp
  have h : (0 : Int) ≤ i := Int.natCast_nonneg i
  have h' : (i : Int) < 16 := by omega
  have hsize := portSize_of_mem_ioRegions hp
  have hanswer := portValue_of_inRange (p := p) (i := i) (by omega) s
  rw [busValue_port s hp h h', busTouch_port s hp h h', busWrite_port v s hp h h', hanswer]
  exact ⟨rfl, rfl, rfl⟩

/-- Settles O26: the four clauses are the Indirect bank's address and one access of the word it names. -/
theorem transferWindows : Obligations.TransferWindows := by
  intro s c h v
  have hc : (0 : Int) ≤ c := Int.natCast_nonneg c
  have hc' : (c : Int) < 128 := by omega
  have hi := indirectAddr_natCast s.itramAddr s.tick h
  have hx := indirectAddr_natCast s.xtramAddr s.tick h
  refine ⟨⟨busValue_itramWindow s hc hc' hi, ?_⟩,
    ⟨busValue_xtramWindow s hc hc' hx, busTouch_xtramWindow s hc hc' hx, busWrite_xtramWindow v s hc hc' hx⟩,
    fun c' h' d hd => indirectAddr_shift _ _ h h' hd, fun c' h' d hd => indirectAddr_shift _ _ h h' hd⟩
  rw [busWrite_itramWindow v s hc hc' hi, itramWrite]
  split <;> rfl

/-! ### A write is seen by the next read (20_memory R72) -/

theorem busValue_busWrite_gpr {i : Int} (h : 0 ≤ i) (h' : i < 256) (v : Word) (s : State) :
    busValue (0x100 + i) (busWrite (0x100 + i) v s) = v := by
  rw [busWrite_gpr v s h h', busValue_gpr _ h h']
  exact arrayRead_arrayWrite_same s.gpr v (by omega)

theorem busValue_busWrite_itramAddr {i : Int} (h : 0 ≤ i) (h' : i < 128) (v : Word) (s : State) :
    busValue (0x300 + i) (busWrite (0x300 + i) v s) = v := by
  rw [busWrite_itramAddr v s h h', busValue_itramAddr _ h h']
  exact arrayRead_arrayWrite_same s.itramAddr v (by omega)

theorem busValue_busWrite_xtramAddr {i : Int} (h : 0 ≤ i) (h' : i < 128) (v : Word) (s : State) :
    busValue (0x380 + i) (busWrite (0x380 + i) v s) = v := by
  rw [busWrite_xtramAddr v s h h', busValue_xtramAddr _ h h']
  exact arrayRead_arrayWrite_same s.xtramAddr v (by omega)

theorem busValue_busWrite_tick (v : Word) (s : State) : busValue 0x5B (busWrite 0x5B v s) = v := by
  rw [busWrite_tick, busValue_tick, State.setTick_tick]

/-- A write through a channel moves neither the counter nor the address register, so the read reaches the same word. -/
theorem busValue_busWrite_itramWindow {i e : Int} (h : 0 ≤ i) (h' : i < 128)
    (he : indirectAddr s.itramAddr s.tick i = some e) (v : Word) (hm : Memory.wf s.itram = true) :
    busValue (0x200 + i) (busWrite (0x200 + i) v s) = if 0 ≤ e ∧ e < (Config.itramSize : Int) then v else 0#32 := by
  rw [busWrite_itramWindow v s h h' he]
  calc busValue (0x200 + i) (s.setItram (itramWrite s.itram e v))
      = itramRead (itramWrite s.itram e v) e := busValue_itramWindow (s.setItram (itramWrite s.itram e v)) h h' he
    _ = if 0 ≤ e ∧ e < (Config.itramSize : Int) then v else 0#32 := itramRead_itramWrite_same e v hm

/-- Settles O28, region by region; the invariant gives the store's canonical form to the ITRAM window. -/
theorem writeIsSeenByTheNextRead : Obligations.WriteIsSeenByTheNextRead := by
  refine fun s a v hinv => ⟨?_, fun hw => ?_⟩
  · rintro (hg | hr | rfl)
    · obtain ⟨i, rfl⟩ : ∃ i, a = 0x100 + i := ⟨a - 0x100, by omega⟩
      exact busValue_busWrite_gpr (by omega) (by omega) v s
    · by_cases hx : a < 0x380
      · obtain ⟨i, rfl⟩ : ∃ i, a = 0x300 + i := ⟨a - 0x300, by omega⟩
        exact busValue_busWrite_itramAddr (by omega) (by omega) v s
      · obtain ⟨i, rfl⟩ : ∃ i, a = 0x380 + i := ⟨a - 0x380, by omega⟩
        exact busValue_busWrite_xtramAddr (by omega) (by omega) v s
    · exact busValue_busWrite_tick v s
  · obtain ⟨i, rfl⟩ : ∃ i, a = 0x200 + i := ⟨a - 0x200, by omega⟩
    have he := indirectAddr_of_inRange s.itramAddr s.tick (a := i) (by omega)
    rw [add_sub_cancel_left]
    exact ⟨_, he, busValue_busWrite_itramWindow (by omega) (by omega) he v hinv.memoryCanonical⟩

/-! ### The program (20_memory R74) -/

/-- The one call of the host that changes the program is `loadProgram`. -/
theorem hostEffect_program (c : HostCall) (s : State) :
    (hostEffect c s).program = s.program ∨ c = .loadProgram (hostEffect c s).program := by
  cases c with
  | peek a => exact .inl (by simp [hostEffect])
  | poke a v => exact .inl (busWrite_program a v s)
  | accRead => exact .inl rfl
  | accWrite v => exact .inl rfl
  | loadProgram p => exact .inr rfl
  | tick => exact .inl rfl

/-- Settles O19, by the cases of a step: only a host call can change the program. -/
theorem programChangesOnlyByLoadProgram : Obligations.ProgramChangesOnlyByLoadProgram := by
  refine ⟨busWrite_program, fun s t hstep hne => ?_⟩
  obtain ⟨ip, w, u, -, -, he, rfl⟩ | ⟨ip, -, -, rfl⟩ | ⟨-, -, rfl⟩ | ⟨c, rest, hp, hh, rfl⟩ := step_cases hstep
  · exact absurd (exec_program he) hne
  · exact absurd rfl hne
  · exact absurd rfl hne
  · obtain hc | hc := hostEffect_program c (s.setHost rest)
    · exact absurd hc hne
    · exact ⟨hp, rest, hc ▸ hh⟩

end Sys2Proof.Machine
end

section
/-! The encoding family (30_encoding): decoding and encoding are inverse on operand A and on the opcode byte, the
fields make up the word and the bytes make up the word; from these O1 to O6. -/

namespace Sys2Proof.Machine

/-! ### Operand A (30_encoding R103) -/

theorem decodeA_encodeA {a : OperandA} (h : a.wellFormed = true) : decodeA (encodeA a) = a := by
  cases a with
  | acc => rfl
  | mem addr =>
    have hne : addr ≠ 0xFFFF#16 := by simpa [OperandA.wellFormed] using h
    exact if_neg hne

theorem encodeA_decodeA (f : Addr) : encodeA (decodeA f) = f := by
  unfold decodeA
  split
  next h => exact h.symm
  next => rfl

theorem decodeA_wellFormed (f : Addr) : (decodeA f).wellFormed = true := by
  unfold decodeA
  split
  next => rfl
  next h => simpa [OperandA.wellFormed] using h

/-! ### The opcode byte (30_encoding R102, R106) -/

theorem highNibble_append (high low : BitVec 4) : (high ++ low).toNat / 16 = high.toNat := by
  rw [BitVec.toNat_append, ← Nat.shiftLeft_add_eq_or_of_lt low.isLt, Nat.shiftLeft_eq]
  omega

theorem append_lowNibble {o : Byte} {high : BitVec 4} (h : o.toNat / 16 = high.toNat) :
    high ++ o.extractLsb' 0 4 = o := by
  have hhigh : o.extractLsb' 4 4 = high := by
    apply BitVec.eq_of_toNat_eq
    rw [BitVec.extractLsb'_toNat, Nat.shiftRight_eq_div_pow, h]
    exact Nat.mod_eq_of_lt high.isLt
  rw [← hhigh]
  exact BitVec.extractLsb'_append_extractLsb'

/-- An instruction is what its opcode byte and its fields decode to: the byte's high nibble finds the row, and the low
nibble is the opcode of an assigned row and kept in the term of an unassigned one. -/
theorem decodeOpcode_opcodeByte (i : Instr) :
    decodeOpcode (opcodeByte i) i.fields.r i.fields.a i.fields.x i.fields.y = i := by
  cases i
  case macs | macsn | macw | macwn | macints | macintw | acc3 | macmv | andxor | testneg | limit | limitl | log |
    exp | interp | skip => simp only [opcodeByte]; rfl
  all_goals simp only [opcodeByte, decodeOpcode, highNibble_append, BitVec.extractLsb'_append_eq_right]; rfl

/-- The sixteen opcodes take the sixteen bytes 0x00..0x0F. -/
theorem decodeAssigned_spec {o : Byte} (h : o.toNat < 16) (r : Addr) (a : OperandA) (x y : Addr) :
    opcodeByte (decodeAssigned o.toNat r a x y) = o ∧ (decodeAssigned o.toNat r a x y).fields = ⟨r, a, x, y⟩ := by
  obtain ⟨n, rfl⟩ : ∃ n : Fin 16, o = BitVec.ofNat 8 n := ⟨⟨o.toNat, h⟩, by simp⟩
  fin_cases n <;> exact ⟨rfl, rfl⟩

/-- What a byte and four fields decode to holds that byte and those fields. -/
theorem decodeOpcode_spec (o : Byte) (r : Addr) (a : OperandA) (x y : Addr) :
    opcodeByte (decodeOpcode o r a x y) = o ∧ (decodeOpcode o r a x y).fields = ⟨r, a, x, y⟩ := by
  have ho := o.isLt
  unfold decodeOpcode
  split
  next h =>
    rw [Nat.mod_eq_of_lt (by omega)]
    exact decodeAssigned_spec (by omega) r a x y
  all_goals refine ⟨append_lowNibble ?_, rfl⟩
  all_goals simp only [BitVec.toNat_ofNat, imp_false] at *; omega

/-- An instruction with an opcode byte from 0x10 up is unassigned, and its rule is the no-op's (30_encoding R109). -/
theorem unassigned_of_opcodeByte {i : Instr} (h : 16 ≤ (opcodeByte i).toNat) :
    isUnassigned i = true ∧ ruleOf i = noOpRule := by
  cases i
  case macs | macsn | macw | macwn | macints | macintw | acc3 | macmv | andxor | testneg | limit | limitl | log |
    exp | interp | skip => exact absurd h (by simp [opcodeByte])
  all_goals exact ⟨rfl, rfl⟩

theorem isUnassigned_decodeOpcode {o : Byte} (h : 16 ≤ o.toNat) (r : Addr) (a : OperandA) (x y : Addr) :
    isUnassigned (decodeOpcode o r a x y) = true := by
  obtain ⟨hbyte, -⟩ := decodeOpcode_spec o r a x y
  obtain ⟨hun, -⟩ := unassigned_of_opcodeByte (hbyte ▸ h)
  exact hun

/-- Settles O4: below 0x10 each byte is its instruction's opcode byte, from 0x10 up it is an unassigned one's. -/
theorem opcodeBytesNameTheirInstructions : Obligations.OpcodeBytesNameTheirInstructions := fun r a x y =>
  have named := decodeOpcode_opcodeByte
  ⟨named (.macs r a x y), named (.macsn r a x y), named (.macw r a x y), named (.macwn r a x y),
    named (.macints r a x y), named (.macintw r a x y), named (.acc3 r a x y), named (.macmv r a x y),
    named (.andxor r a x y), named (.testneg r a x y), named (.limit r a x y), named (.limitl r a x y),
    named (.log r a x y), named (.exp r a x y), named (.interp r a x y), named (.skip r a x y),
    fun _ h => isUnassigned_decodeOpcode h r a x y⟩

/-! ### Words (30_encoding R101) -/

/-- The five fields make up the word. -/
theorem append_fields (w : InstrWord) : opbField w ++ rField w ++ aField w ++ xField w ++ yField w = w := by
  unfold opbField rField aField xField yField
  iterate 4 rw [BitVec.extractLsb'_append_extractLsb'_eq_extractLsb']
  · exact BitVec.extractLsb'_eq_self
  all_goals rfl

theorem opcodeByte_decode (w : InstrWord) : opcodeByte (decode w) = opbField w :=
  (decodeOpcode_spec _ _ _ _ _).1

theorem fields_decode (w : InstrWord) : (decode w).fields = ⟨rField w, decodeA (aField w), xField w, yField w⟩ :=
  (decodeOpcode_spec _ _ _ _ _).2

/-- The word of any instruction holds its opcode byte and its fields. -/
theorem encode_holds_fields (i : Instr) : Laws.EncodedFields.Statement i := Laws.fields_of_append _ _ _ _ _

theorem decode_encode {i : Instr} (h : i.wellFormed = true) : decode (encode i) = i := by
  obtain ⟨ho, hr, ha, hx, hy⟩ := encode_holds_fields i
  rw [decode, ho, hr, ha, hx, hy, decodeA_encodeA h, decodeOpcode_opcodeByte]

theorem encode_decode (w : InstrWord) : encode (decode w) = w := by
  rw [encode, opcodeByte_decode, fields_decode, encodeA_decodeA, append_fields]

theorem decode_wellFormed (w : InstrWord) : (decode w).wellFormed = true := by
  rw [Instr.wellFormed, fields_decode]
  exact decodeA_wellFormed _

/-- Settles O1: the word holds the instruction's byte and fields, and each decodes back. -/
theorem decodeOfEncodeIsIdentity : Obligations.DecodeOfEncodeIsIdentity := fun _ => decode_encode

/-- Settles O2: the instruction holds the word's byte and fields, which make up the word. -/
theorem encodeOfDecodeIsIdentity : Obligations.EncodeOfDecodeIsIdentity := fun w =>
  ⟨encode_decode w, decode_wellFormed w⟩

/-- A word with an unassigned opcode byte means the no-op of its operands. -/
theorem exec_decode_of_unassigned {w : InstrWord} (h : 16 ≤ (opbField w).toNat) (s : State) :
    exec (decode w) s = cycle noOpRule (decode w).fields.r (decode w).fields.a (decode w).fields.x
      (decode w).fields.y s := by
  obtain ⟨-, hrule⟩ := unassigned_of_opcodeByte ((opcodeByte_decode w).symm ▸ h)
  rw [exec_eq_cycle, hrule]

/-- Settles O3: a left inverse makes the decoder injective, and unassigned bytes share the no-op's rule. -/
theorem everyWordDecodesToItsFields : Obligations.EveryWordDecodesToItsFields := by
  refine ⟨fun w => ⟨opcodeByte_decode w, fields_decode w⟩, Function.LeftInverse.injective encode_decode, ?_⟩
  intro w w' s h h' hfields
  rw [exec_decode_of_unassigned h, exec_decode_of_unassigned h', hfields]

/-- Settles O5, by evaluating the decoder at the ten words. -/
theorem specWordsDecode : Obligations.SpecWordsDecode := by
  unfold Obligations.SpecWordsDecode
  decide

/-! ### Bytes (30_encoding R110) -/

/-- The byte decoder puts the nine bytes of a word together again and leaves the bytes after them. -/
theorem decodeBytes_wordBytes (w : InstrWord) (rest : List Byte) :
    decodeBytes (wordBytes w ++ rest) = .ok (decode w, rest) := by
  simp only [wordBytes, List.cons_append, List.nil_append, decodeBytes]
  iterate 8 rw [BitVec.extractLsb'_append_extractLsb'_eq_extractLsb']
  · rw [BitVec.extractLsb'_eq_self]
  all_goals rfl

theorem decodeBytes_of_length_lt {bs : List Byte} (h : bs.length < 9) :
    decodeBytes bs = .error (.truncated bs.length) := by
  unfold decodeBytes
  split
  next => simp only [List.length_cons] at h; omega
  next => rfl

theorem encodeBytes_head? (i : Instr) : (encodeBytes i).head? = some (opcodeByte i) := by
  obtain ⟨ho, -⟩ := encode_holds_fields i
  exact congrArg some ho

/-- Settles O6, from the round trip of words. -/
theorem byteFormRoundTrips : Obligations.ByteFormRoundTrips := by
  refine ⟨fun i => ⟨rfl, encodeBytes_head? i⟩, fun i rest h => ?_, fun bs => decodeBytes_of_length_lt⟩
  rw [encodeBytes, decodeBytes_wordBytes, decode_encode h]

end Sys2Proof.Machine
end

section
/-! The accumulator (40_execution R120 to R129): its operations as arithmetic of integers and its read views; from these
O31 to O35. -/

namespace Sys2Proof.Machine

/-! ### The accumulator as an integer (40_execution R120 to R122, R129) -/

theorem Accumulator.value_of_pos {c : Accumulator} (h : c.s = false) : c.value = c.mag := by simp [Accumulator.value, h]

theorem Accumulator.value_of_neg {c : Accumulator} (h : c.s = true) : c.value = -(c.mag : Int) := by
  simp [Accumulator.value, h]

theorem Accumulator.ofMag_mag_of_lt (s : Bool) {m : Nat} (h : m < 2 ^ 67) : (Accumulator.ofMag s m).mag = m := by
  rw [Accumulator.ofMag_mag, Nat.mod_eq_of_lt h]

@[simp] theorem Accumulator.write_s (v : Int) : (Accumulator.write v).s = decide (v < 0) := rfl

theorem Accumulator.write_mag {v : Int} (h : v.natAbs < 2 ^ 67) : (Accumulator.write v).mag = v.natAbs :=
  Accumulator.ofMag_mag_of_lt _ h

theorem Accumulator.write_value {v : Int} (h : v.natAbs < 2 ^ 67) : (Accumulator.write v).value = v := by
  have hm := Accumulator.write_mag h
  by_cases hv : v < 0
  · rw [Accumulator.value_of_neg (by simpa using hv)]
    omega
  · rw [Accumulator.value_of_pos (by simpa using hv)]
    omega

theorem Accumulator.write_guard {v : Int} (h : v.natAbs < 2 ^ 64) : (Accumulator.write v).guard = 0#3 := by
  have hdiv : v.natAbs / 0x10000000000000000 = 0 := Nat.div_eq_of_lt h
  rw [Accumulator.write, Accumulator.ofMag, hdiv]

/-- Settles O31: 2^63 is far below the magnitude's 67 bits and the guard's weight 2^64. -/
theorem accWriteLoadsTheValue : Obligations.AccWriteLoadsTheValue := by
  intro v h
  exact ⟨Accumulator.write_value (by omega), Accumulator.write_mag (by omega), Accumulator.write_guard (by omega),
    by rw [Accumulator.write_s, decide_eq_true_eq]⟩

/-- Settles O32: each case of the addition names the limbs it makes, and a difference of magnitudes needs no reduction. -/
theorem accAddIsSignMagnitude : Obligations.AccAddIsSignMagnitude := by
  intro c v hv
  have hc := c.mag_lt
  refine ⟨fun hs => ?_, fun hs hlt => ?_, fun hs hgt => ?_, fun hs heq => ?_⟩
  · rw [Accumulator.add, if_pos hs]
    exact ⟨Accumulator.ofMag_mag _ _, Accumulator.ofMag_s _ _⟩
  · rw [Accumulator.add, if_neg hs, if_pos hlt]
    exact ⟨Accumulator.ofMag_mag_of_lt _ (by omega), Accumulator.ofMag_s _ _⟩
  · rw [Accumulator.add, if_neg hs, if_neg (by omega), if_pos hgt]
    exact ⟨Accumulator.ofMag_mag_of_lt _ (by omega), Accumulator.ofMag_s _ _⟩
  · rw [Accumulator.add, if_neg hs, if_neg (by omega), if_neg (by omega)]
    exact ⟨Accumulator.ofMag_mag_of_lt _ (by omega), Accumulator.ofMag_s _ _⟩

/-- The value of the limbs that hold a magnitude of at most 67 bits. -/
theorem Accumulator.value_ofMag (s : Bool) {m : Nat} (h : m < 2 ^ 67) :
    (Accumulator.ofMag s m).value = if s then -(m : Int) else m := by
  rw [Accumulator.value, Accumulator.ofMag_s, Accumulator.ofMag_mag_of_lt s h]

/-- An addition is exact where the sum fits 67 bits of magnitude (40_execution R129). -/
theorem Accumulator.add_value {c : Accumulator} {v : Int} (h : (c.value + v).natAbs < 2 ^ 67) :
    (c.add v).value = c.value + v := by
  have hc := c.mag_lt
  obtain ⟨hs, ha⟩ | ⟨hs, hlt, ha⟩ | ⟨hs, hgt, ha⟩ | ⟨hs, heq, ha⟩ := c.add_cases v <;> rw [ha] <;>
    cases hsign : c.s
  all_goals
    simp only [hsign, Accumulator.value_of_pos, Accumulator.value_of_neg, ne_eq, decide_eq_true_eq,
      decide_eq_false_iff_not, not_not] at h hs ⊢
    rw [Accumulator.value_ofMag _ (by omega)]
    simp only [hs, decide_true, decide_false, Bool.false_eq_true, if_true, if_false]
    omega

/-- A sequence of additions is exact while every partial sum fits. -/
theorem Accumulator.foldl_add_value :
    ∀ (vs : List Int) (c : Accumulator), (∀ n, (c.value + (vs.take n).sum).natAbs < 2 ^ 67) →
      (vs.foldl Accumulator.add c).value = c.value + vs.sum
  | [], c, _ => by simp
  | v :: vs, c, h => by
    have hv : (c.add v).value = c.value + v := Accumulator.add_value (by simpa using h 1)
    rw [List.foldl_cons, Accumulator.foldl_add_value vs (c.add v), hv, List.sum_cons, add_assoc]
    intro n
    have hn := h (n + 1)
    rw [List.take_succ_cons, List.sum_cons, ← add_assoc] at hn
    rwa [hv]

/-- The full wrapped view is the value modulo 2^64. -/
theorem Accumulator.read_eq (c : Accumulator) : c.read = BitVec.ofInt 64 c.value := dword_wrap _

theorem Accumulator.readLowWrap_eq (c : Accumulator) : c.readLowWrap = BitVec.ofInt 32 c.value := word_wrap _

theorem natAbs_dword_lt (v : DWord) : v.toInt.natAbs < 2 ^ 67 := by
  have hlo := v.le_toInt
  have hhi := v.toInt_lt
  omega

/-- Settles O33, from the exactness of the load and of an addition. -/
theorem accumulatorSumsAreExact : Obligations.AccumulatorSumsAreExact := by
  have hwrite (v : DWord) : (Accumulator.write v.toInt).value = v.toInt := Accumulator.write_value (natAbs_dword_lt v)
  refine ⟨fun v => ?_, fun v1 v2 h => ?_, fun v0 vs h => ?_⟩
  · rw [Accumulator.read_eq, hwrite, BitVec.ofInt_toInt]
  · have hadd : ((Accumulator.write v1.toInt).add v2.toInt).value = v1.toInt + v2.toInt := by
      rw [Accumulator.add_value, hwrite]
      rwa [hwrite]
    refine ⟨hadd, fun hlo hhi => ?_⟩
    rw [Accumulator.read_eq, hadd, BitVec.toInt_ofInt_eq_self (by decide) hlo hhi]
  · rw [Accumulator.foldl_add_value, hwrite]
    intro n
    rw [hwrite, ← List.map_take]
    exact h n

/-! ### The read views (40_execution R123 to R128) -/

section Saturation

variable {n : Nat} {v : Int}

theorem sat_of_ge (h : ((2 ^ (n - 1) : Nat) : Int) ≤ v) : sat n v = ((2 ^ (n - 1) : Nat) : Int) - 1 := by
  rw [sat, if_pos (by omega)]

theorem sat_of_lt (h : v < -((2 ^ (n - 1) : Nat) : Int)) : sat n v = -((2 ^ (n - 1) : Nat) : Int) := by
  have hpos : (0 : Int) ≤ ((2 ^ (n - 1) : Nat) : Int) := Int.natCast_nonneg _
  rw [sat, if_neg (by omega), if_pos h]

theorem sat_of_inRange (h : -((2 ^ (n - 1) : Nat) : Int) ≤ v) (h' : v < ((2 ^ (n - 1) : Nat) : Int)) : sat n v = v := by
  rw [sat, if_neg (by omega), if_neg (by omega)]

end Saturation

/-- The low limbs are the magnitude modulo 2^64. -/
theorem Accumulator.ofNat_mag (c : Accumulator) : BitVec.ofNat 64 c.mag = c.hi ++ c.lo := by
  have hhi := c.hi.isLt
  have hlo := c.lo.isLt
  apply BitVec.eq_of_toNat_eq
  rw [BitVec.toNat_append, ← Nat.shiftLeft_add_eq_or_of_lt hlo, Nat.shiftLeft_eq, BitVec.toNat_ofNat, Accumulator.mag]
  omega

/-- The full wrapped view from the low limbs and the sign (40_execution R123). -/
theorem Accumulator.read_eq_limbs (c : Accumulator) : c.read = if c.s then -(c.hi ++ c.lo) else c.hi ++ c.lo := by
  rw [Accumulator.read_eq, Accumulator.value]
  split
  · rw [BitVec.ofInt_neg, BitVec.ofInt_natCast, Accumulator.ofNat_mag]
  · rw [BitVec.ofInt_natCast, Accumulator.ofNat_mag]

/-- The low wrapped view is the low word of the full one (40_execution R125). -/
theorem Accumulator.readLowWrap_eq_setWidth (c : Accumulator) : c.readLowWrap = c.read.setWidth 32 := by
  rw [Accumulator.readLowWrap_eq, Accumulator.read_eq]
  apply BitVec.eq_of_toNat_eq
  rw [BitVec.toNat_setWidth, BitVec.toNat_ofInt, BitVec.toNat_ofInt]
  omega

theorem Accumulator.readSat_of_ge {c : Accumulator} (h : 2 ^ 63 ≤ c.value) : c.readSat.toInt = 2 ^ 63 - 1 := by
  rw [Accumulator.readSat, sat_of_ge (by simpa using h)]
  rfl

theorem Accumulator.readSat_of_le {c : Accumulator} (h : c.value ≤ -2 ^ 63) : c.readSat.toInt = -2 ^ 63 := by
  obtain h | h := h.lt_or_eq
  · rw [Accumulator.readSat, sat_of_lt (by simpa using h)]
    rfl
  · rw [Accumulator.readSat, h]
    rfl

theorem Accumulator.readSat_of_inRange {c : Accumulator} (h : -2 ^ 63 ≤ c.value) (h' : c.value < 2 ^ 63) :
    c.readSat.toInt = c.value := by
  rw [Accumulator.readSat, sat_of_inRange (by simpa using h) (by simpa using h'), dword,
    BitVec.toInt_ofInt_eq_self (by decide) h h']

theorem Accumulator.readLowSat_of_ge {c : Accumulator} (h : 2 ^ 31 ≤ c.value) : c.readLowSat.toInt = 2 ^ 31 - 1 := by
  rw [Accumulator.readLowSat, sat_of_ge (by simpa using h)]
  rfl

theorem Accumulator.readLowSat_of_lt {c : Accumulator} (h : c.value < -2 ^ 31) : c.readLowSat.toInt = -2 ^ 31 := by
  rw [Accumulator.readLowSat, sat_of_lt (by simpa using h)]
  rfl

theorem Accumulator.readLowSat_of_inRange {c : Accumulator} (h : -2 ^ 31 ≤ c.value) (h' : c.value < 2 ^ 31) :
    c.readLowSat = BitVec.ofInt 32 c.value := by
  rw [Accumulator.readLowSat, sat_of_inRange (by simpa using h) (by simpa using h'), word]

/-- Settles O34, view by view; the saturated full view by the sign and the magnitude. -/
theorem accumulatorReadViews : Obligations.AccumulatorReadViews := by
  intro c
  refine ⟨c.read_eq_limbs, by rw [c.read_eq, BitVec.toInt_ofInt], fun hs hm => ?_, fun hs hm => ?_, fun hm => ?_,
    c.readLowWrap_eq_setWidth, by rw [c.readLowWrap_eq, BitVec.toInt_ofInt], Accumulator.readLowSat_of_ge,
    Accumulator.readLowSat_of_lt, fun hlo hhi => ?_⟩
  · have hv := Accumulator.value_of_pos hs
    exact Accumulator.readSat_of_ge (by omega)
  · have hv := Accumulator.value_of_neg hs
    exact Accumulator.readSat_of_le (by omega)
  · have hv : c.value.natAbs = c.mag := by unfold Accumulator.value; split <;> omega
    exact Accumulator.readSat_of_inRange (by omega) (by omega)
  · have hview := Accumulator.readLowSat_of_inRange hlo hhi
    exact ⟨by rw [hview, BitVec.toInt_ofInt_eq_self (by decide) hlo hhi], hview.trans c.readLowWrap_eq.symm⟩

/-- Settles O35: every view is a function of the value or of `VH`, and both are 0. -/
theorem twoZerosReadAlike : Obligations.TwoZerosReadAlike := by
  intro c hm
  have hvalue : c.value = 0 := by simp [Accumulator.value, hm]
  have hhigh : c.high = 0 := by simp [Accumulator.high, hm]
  rw [Accumulator.read, Accumulator.readSat, Accumulator.readLowWrap, Accumulator.readLowSat, Accumulator.readHiWrap,
    Accumulator.readHiSat, hvalue, hhigh]
  decide

end Sys2Proof.Machine
end

section
/-! The instruction cycle (40_execution R130 to R138): the operand fetch, the write-back, what an instruction leaves
unchanged, and a whole tick; from these O36 to O38 and O8. -/

namespace Sys2Proof.Machine

/-! ### The operand fetch (40_execution R131) -/

theorem fetch_acc (x y : Addr) (s : State) :
    fetch .acc x y s =
      (⟨BitVec.ofInt 64 s.acc.value, busValue (busAddr x) s, busValue (busAddr y) (busTouch (busAddr x) s)⟩,
        busTouch (busAddr y) (busTouch (busAddr x) s)) := by
  rw [← Accumulator.read_eq]
  rfl

theorem fetch_mem (a x y : Addr) (s : State) :
    fetch (.mem a) x y s =
      (⟨(busValue (busAddr a) s).signExtend 64, busValue (busAddr x) (busTouch (busAddr a) s),
          busValue (busAddr y) (busTouch (busAddr x) (busTouch (busAddr a) s))⟩,
        busTouch (busAddr y) (busTouch (busAddr x) (busTouch (busAddr a) s))) := rfl

theorem busTouch_atMostOneEvent (a : Int) (s : State) : ∃ l, l.length ≤ 1 ∧ busTouch a s = s.withEvents l := by
  obtain h | ⟨p, i, v, h⟩ := busTouch_cases a s
  · exact ⟨[], by simp, h⟩
  · exact ⟨[.read p i v], by simp, h⟩

theorem touchA_atMostOneEvent (a : OperandA) (s : State) : ∃ l, l.length ≤ 1 ∧ touchA a s = s.withEvents l := by
  cases a with
  | acc => exact ⟨[], by simp, rfl⟩
  | mem addr => exact busTouch_atMostOneEvent _ s

/-- A fetch changes nothing but the record of accesses, which grows by one access for each operand at most. -/
theorem fetch_atMostThreeEvents (a : OperandA) (x y : Addr) (s : State) :
    ∃ l, l.length ≤ 3 ∧ (fetch a x y s).2 = s.withEvents l := by
  obtain ⟨l1, hl1, h1⟩ := touchA_atMostOneEvent a s
  obtain ⟨l2, hl2, h2⟩ := busTouch_atMostOneEvent (busAddr x) (touchA a s)
  obtain ⟨l3, hl3, h3⟩ := busTouch_atMostOneEvent (busAddr y) (busTouch (busAddr x) (touchA a s))
  refine ⟨l3 ++ (l2 ++ l1), by simp only [List.length_append]; omega, ?_⟩
  show busTouch (busAddr y) (busTouch (busAddr x) (touchA a s)) = _
  rw [h3, h2, h1]
  simp [State.withEvents]

/-- A read of a core-owned address leaves the state as it was, and its value does not depend on the record. -/
theorem coreOwned_read {a : Int} (h : coreOwned a) (s : State) (l : List Event) :
    busTouch a s = s ∧ busValue a { s with events := l } = busValue a s := by
  unfold coreOwned at h
  unfold busTouch busValue
  generalize busMap a = selected at h ⊢
  obtain ⟨leaf, i⟩ := selected
  cases leaf
  case port | xtramWindow => exact False.elim h
  all_goals exact ⟨rfl, rfl⟩

theorem busTouch_of_coreOwned {a : Int} (h : coreOwned a) (s : State) : busTouch a s = s := (coreOwned_read h s []).1

section FxIn

variable {a : Addr} (h : a.toNat < 16) (s : State)
include h

/-- The first sixteen addresses are the FX bus's input bank. -/
theorem busValue_fxIn : busValue (busAddr a) s = Config.answer s.draws s.events .fxIn a.toNat := by
  have hport : busValue (0x00 + (a.toNat : Int)) s = portValue .fxIn a.toNat s :=
    busValue_port s (mem_ioRegions.mpr (.inl ⟨rfl, rfl⟩)) (by omega) (by omega)
  rw [zero_add] at hport
  exact hport.trans (portValue_of_inRange (by simp only [portSize]; omega) s)

theorem busTouch_fxIn :
    busTouch (busAddr a) s = s.logEvent (.read .fxIn a.toNat (Config.answer s.draws s.events .fxIn a.toNat)) := by
  have hport : busTouch (0x00 + (a.toNat : Int)) s = s.logEvent (.read .fxIn a.toNat (portValue .fxIn a.toNat s)) :=
    busTouch_port s (mem_ioRegions.mpr (.inl ⟨rfl, rfl⟩)) (by omega) (by omega)
  rw [zero_add, portValue_of_inRange (by simp only [portSize]; omega) s] at hport
  exact hport

end FxIn

/-- Settles O36: the fetch of each form of A, the accesses it records, and their absence at core-owned operands. -/
theorem operandFetchIsOrderedAndPure : Obligations.OperandFetchIsOrderedAndPure := by
  refine ⟨fetch_acc, fetch_mem, fetch_atMostThreeEvents, fun a l s h => coreOwned_read h s l, fun x y s hx hy => ?_,
    fun a x y s ha hx hy => ?_, fun a x y s ha hx hy => ?_⟩
  · rw [fetch_acc, busTouch_of_coreOwned hx, busTouch_of_coreOwned hy]
  · rw [fetch_mem, busTouch_of_coreOwned ha, busTouch_of_coreOwned hx, busTouch_of_coreOwned hy]
  · rw [fetch_mem, busTouch_fxIn ha, busTouch_fxIn hx, busTouch_fxIn hy, busValue_fxIn ha, busValue_fxIn hx,
      busValue_fxIn hy]
    rfl

/-! ### The write-back (40_execution R134) -/

theorem writeBack_none (r : Addr) (s : State) : writeBack r none s = s := rfl

theorem writeBack_accumAddr (res : Option Word) (s : State) : writeBack 0x0056#16 res s = s := by
  cases res with
  | none => rfl
  | some v => simp [writeBack, accumAddr]

theorem writeBack_some {r : Addr} (h : r ≠ 0x0056#16) (v : Word) (s : State) :
    writeBack r (some v) s = busWrite (busAddr r) v s := if_neg h

/-- Settles O37: at the accumulator's register even a bus write would be dropped, as at all of the system leaf but
TICK. -/
theorem writeBackSkipsTheAccumulatorRegister : Obligations.WriteBackSkipsTheAccumulatorRegister := fun r v s =>
  ⟨writeBack_none r s, writeBack_accumAddr (some v) s,
    busWrite_sysLeaf_of_ne_tick (by decide) (by decide) (by decide) v s, fun h => writeBack_some h v s⟩

/-! ### What an instruction leaves unchanged (40_execution R130 to R134, 10_state R20) -/

/-- A write to an Array bank leaves every other word of it. -/
theorem arrayWrite_getElem_other {n k : Nat} (store : Vector Word n) (v : Word) {a : Int} (hk : k < n)
    (h : a ≠ (k : Int)) : (arrayWrite store a v)[k] = store[k] := by
  by_cases hr : 0 ≤ a ∧ a.toNat < n
  · simp only [arrayWrite_of_inRange store v hr]
    exact Vector.getElem_set_ne hr.2 hk (by omega)
  · simp only [arrayWrite_of_outOfRange store v hr]

/-- The frame holds of the state between the fetch and the write-back, wherever R points. -/
theorem frameOutside_fetched (r : Addr) (s : State) {l : List Event} (hl : l.length ≤ 4) (c : Accumulator) :
    FrameOutside r s ((s.withEvents l).setAcc c) where
  gpr _ _ _ := rfl
  itramAddr _ _ _ := rfl
  xtramAddr _ _ _ := rfl
  itram _ _ := rfl
  tick _ := rfl
  noise0 := rfl
  noise1 := rfl
  program := rfl
  phase := rfl
  draws := rfl
  events := ⟨l, hl, rfl⟩
  replies := rfl
  host := rfl

/-- A write-back after the fetch changes the location that R names, or records one access more. -/
theorem frameOutside_writeBack (r : Addr) (res : Option Word) (s : State) {l : List Event} (hl : l.length ≤ 3)
    (c : Accumulator) : FrameOutside r s (writeBack r res ((s.withEvents l).setAcc c)) := by
  have fetched := frameOutside_fetched r s (hl.trans (by decide)) c
  obtain h | ⟨v, -, h⟩ := writeBack_cases r res ((s.withEvents l).setAcc c) <;> rw [h]
  · exact fetched
  obtain h | ⟨p, i, h⟩ | ⟨hm, h⟩ | ⟨i, hm, h⟩ | ⟨i, hm, h⟩ | ⟨i, hm, h⟩ | ⟨i, e, hm, he, h⟩ :=
    busWrite_cases (busAddr r) v ((s.withEvents l).setAcc c) <;> rw [h]
  · exact fetched
  · exact { fetched with events := ⟨.write p i v :: l, Nat.succ_le_succ hl, rfl⟩ }
  · exact { fetched with tick := fun hne => absurd hm hne }
  · exact { fetched with
      gpr := fun k hk hne => arrayWrite_getElem_other s.gpr v hk fun hik => hne (hik ▸ hm) }
  · exact { fetched with
      itramAddr := fun k hk hne => arrayWrite_getElem_other s.itramAddr v hk fun hik => hne (hik ▸ hm) }
  · exact { fetched with
      xtramAddr := fun k hk hne => arrayWrite_getElem_other s.xtramAddr v hk fun hik => hne (hik ▸ hm) }
  · have htarget : itramTarget r s = some e := by
      rw [itramTarget, hm]
      exact he
    exact { fetched with
      itram := fun e' hne => itramRead_itramWrite_other (fun hee => hne (by rw [htarget, hee])) v }

/-- No bus address names the accumulator: the system leaf drops writes at 0x56 (20_memory R61). -/
@[simp] theorem busWrite_acc (a : Int) (v : Word) (s : State) : (busWrite a v s).acc = s.acc := by
  obtain h | ⟨p, i, h⟩ | ⟨-, h⟩ | ⟨i, -, h⟩ | ⟨i, -, h⟩ | ⟨i, -, h⟩ | ⟨i, e, -, -, h⟩ := busWrite_cases a v s <;>
    simp [h]

@[simp] theorem writeBack_acc (r : Addr) (res : Option Word) (s : State) : (writeBack r res s).acc = s.acc := by
  obtain h | ⟨v, -, h⟩ := writeBack_cases r res s <;> simp [h]

/-- The rules of the other instructions hand the accumulator on as they found it. -/
theorem ruleOf_keeps_acc {i : Instr} (h : changesAccumulator i = false) (o : Operands) (c : Accumulator) :
    (ruleOf i o c).1 = c := by
  cases i
  case macs | macsn | macw | macwn | macints | macintw | acc3 | macmv | andxor | interp => cases h
  all_goals rfl

theorem ruleOf_of_no_result {i : Instr} (h : writesResult i = false) : ruleOf i = noOpRule := by
  cases i
  case macs | macsn | macw | macwn | macints | macintw | acc3 | macmv | andxor | testneg | limit | limitl | log |
    exp | interp => cases h
  all_goals rfl

/-- What an instruction answers, in terms of its rule: the fetch's records, the rule's accumulator, the write-back. -/
theorem exec_next_rule (i : Instr) (s : State) :
    ∃ l o, l.length ≤ 3 ∧ exec i s =
      .next (writeBack i.fields.r (ruleOf i o s.acc).2 ((s.withEvents l).setAcc (ruleOf i o s.acc).1)) := by
  obtain ⟨l, hl, hfetch⟩ := fetch_atMostThreeEvents i.fields.a i.fields.x i.fields.y s
  refine ⟨l, (fetch i.fields.a i.fields.x i.fields.y s).1, hl, ?_⟩
  rw [exec_eq_cycle, cycle_next, hfetch]
  rfl

/-- Settles O38: the fetch and the write-back give the frame, the opcode's rule the accumulator and the no-op. -/
theorem instructionFrame : Obligations.InstructionFrame := by
  intro i s t he
  obtain ⟨l, o, hl, hnext⟩ := exec_next_rule i s
  cases hnext.symm.trans he
  refine ⟨frameOutside_writeBack _ _ s hl _, fun hc => ?_, fun hw => ⟨l, ?_⟩, fun hr => ⟨l, ?_⟩⟩
  · rw [writeBack_acc, State.setAcc_acc, ruleOf_keeps_acc hc]
  · rw [ruleOf_of_no_result hw]
    rfl
  · rw [hr, writeBack_accumAddr]
    rfl

/-! ### The tick (40_execution R136, R137) -/

section Phase

variable (s : State) (p : Phase)

/-- No access of the bus reads or writes the index. -/
@[simp] theorem busValue_setPhase (a : Int) : busValue a (s.setPhase p) = busValue a s := rfl

@[simp] theorem busTouch_setPhase (a : Int) : busTouch a (s.setPhase p) = (busTouch a s).setPhase p := by
  unfold busTouch
  rcases busMap a with ⟨leaf, i⟩
  cases leaf
  case xtramWindow =>
    simp only [leafTouch, State.setPhase_xtramAddr, State.setPhase_tick]
    cases indirectAddr s.xtramAddr s.tick i <;> rfl
  all_goals rfl

@[simp] theorem busWrite_setPhase (a : Int) (v : Word) :
    busWrite a v (s.setPhase p) = (busWrite a v s).setPhase p := by
  unfold busWrite
  rcases busMap a with ⟨leaf, i⟩
  cases leaf
  case sys =>
    simp only [leafWrite, sysWrite]
    split <;> rfl
  case itramWindow =>
    simp only [leafWrite, State.setPhase_itramAddr, State.setPhase_tick]
    cases indirectAddr s.itramAddr s.tick i <;> rfl
  case xtramWindow =>
    simp only [leafWrite, State.setPhase_xtramAddr, State.setPhase_tick]
    cases indirectAddr s.xtramAddr s.tick i <;> rfl
  all_goals rfl

theorem fetch_setPhase (a : OperandA) (x y : Addr) :
    fetch a x y (s.setPhase p) = ((fetch a x y s).1, (fetch a x y s).2.setPhase p) := by
  cases a with
  | acc => simp only [fetch_acc, busValue_setPhase, busTouch_setPhase, State.setPhase_acc]
  | mem addr => simp only [fetch_mem, busValue_setPhase, busTouch_setPhase]

theorem writeBack_setPhase (r : Addr) (res : Option Word) :
    writeBack r res (s.setPhase p) = (writeBack r res s).setPhase p := by
  cases res with
  | none => rfl
  | some v =>
    by_cases h : r = 0x0056#16
    · rw [h, writeBack_accumAddr, writeBack_accumAddr]
    · rw [writeBack_some h, writeBack_some h, busWrite_setPhase]

variable {s} in
/-- An instruction does the same at every index. -/
theorem exec_setPhase {i : Instr} {t : State} (h : exec i s = .next t) :
    exec i (s.setPhase p) = .next (t.setPhase p) := by
  rw [exec_eq_cycle, cycle_next] at h ⊢
  cases h
  rw [fetch_setPhase, ← writeBack_setPhase]
  rfl

end Phase

theorem run_succ {s t : State} (k : Nat) (h : step s = .next t) :
    Host.Core.run Sys2Proof.core (k + 1) s = Host.Core.run Sys2Proof.core k t := by
  have hcore : Sys2Proof.core.step s = .next t := h
  simp only [Host.Core.run, hcore]

/-- From any index, the steps that are left of a tick are the words that are left, in order, and the tick's end. -/
theorem run_remaining_words :
    ∀ (ws : List InstrWord) (ip : Nat) (s : State), s.program.words.drop ip = ws →
      ∃ t, runWords ws s = .next t ∧
        Host.Core.run Sys2Proof.core (ws.length + 1) (s.setPhase (.running ip)) = .next (endTick t)
  | [], ip, s, hws => by
    have hend : (s.setPhase (.running ip)).program.words[ip]? = none :=
      List.getElem?_eq_none_iff.mpr (List.drop_eq_nil_iff.mp hws)
    refine ⟨s, rfl, ?_⟩
    rw [List.length_nil, run_succ 0 ((step_running rfl).trans (duringTick_end hend))]
    rfl
  | w :: ws, ip, s, hws => by
    have hword : s.program.words[ip]? = some w := by
      rw [← Nat.add_zero ip, ← List.getElem?_drop, hws]
      rfl
    have hrest : s.program.words.drop (ip + 1) = ws := by rw [← List.tail_drop, hws, List.tail_cons]
    obtain ⟨l, c, res, he⟩ := exec_next_writeBack (decode w) s
    generalize writeBack (decode w).fields.r res ((s.withEvents l).setAcc c) = u at he
    obtain ⟨t, hrun, hsteps⟩ := run_remaining_words ws (ip + 1) u (by rw [exec_program he, hrest])
    refine ⟨t, by rw [runWords, he]; exact hrun, ?_⟩
    have hstep := step_of_word (s := s.setPhase (.running ip)) rfl hword (exec_setPhase (.running ip) he)
    rw [List.length_cons, run_succ _ hstep]
    exact hsteps

/-- The end of a tick adds 1 to the counter modulo 2^32. -/
theorem endTick_eq (t : State) : endTick t = { t with tick := t.tick + 1#32, phase := .idle } := by
  have htick : word (wrap 32 (t.tick.toInt + 1)) = t.tick + 1#32 := by
    rw [word_wrap, BitVec.ofInt_add, BitVec.ofInt_toInt]
    rfl
  rw [endTick, htick]
  rfl

/-- Settles O8: the first step is the host's call, which draws the noise and sets the index to 0. -/
theorem tickRunsTheProgramOnceTopToBottom : Obligations.TickRunsTheProgramOnceTopToBottom := by
  intro s rest hidle hhost
  have hcall : step s = .next (startTick (s.setHost rest)) :=
    (step_idle hidle).trans (betweenTicks_cons hidle hhost)
  obtain ⟨t, hwords, hsteps⟩ := run_remaining_words s.program.words 0 (startTick (s.setHost rest)) rfl
  refine ⟨t, hwords, ?_⟩
  rw [run_succ _ hcall, ← endTick_eq]
  exact hsteps

end Sys2Proof.Machine
end

section
/-! The multiply-accumulate family (41_multiply_accumulate R150 to R157): a term added to a loaded accumulator is the
load of the exact sum, and each result is a function of that sum; from these O39 to O46. -/

namespace Sys2Proof.Machine

/-! ### The accumulator after a load and an addition -/

/-- Limbs with the sign and the magnitude of `v` are what a load of `v` makes. -/
theorem Accumulator.ofMag_eq_write {b : Bool} {m : Nat} {v : Int} (hs : decide (v < 0) = b) (hm : v.natAbs = m) :
    Accumulator.ofMag b m = Accumulator.write v := by
  rw [Accumulator.write, hs, hm]

/-- Adding to a loaded value is loading the sum: the sign is the sum's own, also where the sum is 0. -/
theorem Accumulator.write_add {v : Int} (h : v.natAbs < 2 ^ 67) (w : Int) :
    (Accumulator.write v).add w = Accumulator.write (v + w) := by
  have hcases := Accumulator.add_cases (Accumulator.write v) w
  rw [Accumulator.write_s, Accumulator.write_mag h, ne_eq, decide_eq_decide] at hcases
  obtain ⟨hs, ha⟩ | ⟨hs, hlt, ha⟩ | ⟨hs, hgt, ha⟩ | ⟨hs, heq, ha⟩ := hcases <;> rw [ha]
  case inr.inr.inr => exact Accumulator.ofMag_eq_write (decide_eq_false (by omega)) (by omega)
  all_goals exact Accumulator.ofMag_eq_write (decide_eq_decide.mpr (by omega)) (by omega)

/-! ### The results as functions of the accumulator's value -/

/-- Saturation is the clamp between the ends of the signed range. -/
theorem sat_eq_max_min (n : Nat) (v : Int) :
    sat n v = max (-((2 ^ (n - 1) : Nat) : Int)) (min (((2 ^ (n - 1) : Nat) : Int) - 1) v) := by
  have hpos : (0 : Int) < ((2 ^ (n - 1) : Nat) : Int) := Int.natCast_pos.mpr (Nat.two_pow_pos _)
  unfold sat
  split
  · omega
  · split <;> omega

/-- The clamp to the 32-bit signed range, as the statements write it. -/
def clamp32 (v : Int) : Int := max (-2 ^ 31) (min (2 ^ 31 - 1) v)

theorem Accumulator.readLowSat_eq (c : Accumulator) : c.readLowSat = BitVec.ofInt 32 (clamp32 c.value) := by
  rw [Accumulator.readLowSat, sat_eq_max_min]
  rfl

/-- A residue modulo 2^31 as a number: it lies below the sign bit. -/
theorem toNat_ofInt_emod (v : Int) : (BitVec.ofInt 32 (v % 2 ^ 31)).toNat = (v % 2 ^ 31).toNat := by
  rw [BitVec.toNat_ofInt]
  omega

/-- MACINTW's view is the value modulo 2^31: the mask drops bit 31 of the value modulo 2^32. -/
theorem low31_eq (c : Accumulator) : low31 c = BitVec.ofInt 32 (c.value % 2 ^ 31) := by
  have hmask : (0x7FFFFFFF#32).toNat = 2 ^ 31 - 1 := rfl
  apply BitVec.eq_of_toNat_eq
  rw [toNat_ofInt_emod, low31, Accumulator.readLowWrap_eq, BitVec.toNat_and, hmask, Nat.and_two_pow_sub_one_eq_mod,
    BitVec.toNat_ofInt]
  omega

theorem toInt_ofInt_emod_nonneg (v : Int) : 0 ≤ (BitVec.ofInt 32 (v % 2 ^ 31)).toInt := by
  have hnat := toNat_ofInt_emod v
  rw [BitVec.toInt_eq_toNat_of_lt (by omega)]
  exact Int.natCast_nonneg _

/-- `lo32` of a 64-bit operand is its integer modulo 2^32 (40_execution R132). -/
theorem Operands.a32_eq (o : Operands) : o.a32 = BitVec.ofInt 32 o.la.toInt :=
  (BitVec.signExtend_eq_setWidth_of_le o.la (by decide)).symm

/-! ### The terms and their sizes -/

theorem fracProduct_eq (o : Operands) : fracProduct o = o.x.toInt * o.y.toInt / 2 ^ 31 := asr_31 _

theorem fracProductNeg_eq (o : Operands) : fracProductNeg o = -o.x.toInt * o.y.toInt / 2 ^ 31 := asr_31 _

theorem intProduct_eq (o : Operands) : intProduct o = o.x.toInt * o.y.toInt := rfl

theorem natAbs_intProduct_le (o : Operands) : (intProduct o).natAbs ≤ 2 ^ 62 := by
  have hlo : -2 ^ 62 ≤ intProduct o := BitVec.le_toInt_mul_toInt
  have hhi : intProduct o ≤ 2 ^ 62 := BitVec.toInt_mul_toInt_le
  omega

theorem natAbs_fracProduct_le (o : Operands) : (fracProduct o).natAbs ≤ 2 ^ 62 := by
  have hproduct := natAbs_intProduct_le o
  rw [intProduct_eq] at hproduct
  rw [fracProduct_eq]
  omega

/-- `-X` at full width reaches +2^31, and the product still 2^62 at most (41_multiply_accumulate R151). -/
theorem natAbs_fracProductNeg_le (o : Operands) : (fracProductNeg o).natAbs ≤ 2 ^ 62 := by
  have hproduct := natAbs_intProduct_le o
  rw [intProduct_eq] at hproduct
  rw [fracProductNeg_eq, neg_mul]
  omega

/-! ### The instructions -/

@[simp] theorem fetch_keeps_acc (a : OperandA) (x y : Addr) (s : State) : (fetch a x y s).2.acc = s.acc := by
  obtain ⟨l, h⟩ := fetch_events a x y s
  rw [h]
  rfl

/-- An instruction answers what its rule gives for the fetched operands. -/
theorem exec_of_rule {i : Instr} {s : State} {c : Accumulator} {res : Option Word}
    (h : let f := fetch i.fields.a i.fields.x i.fields.y s; ruleOf i f.1 f.2.acc = (c, res)) :
    exec i s = .next (writeBack i.fields.r res ((fetch i.fields.a i.fields.x i.fields.y s).2.setAcc c)) := by
  rw [exec_eq_cycle, cycle_next, h]

/-- The six instructions that load A and add one term: the accumulator holds the exact sum, and R receives the view's
function `result` of it. -/
theorem exec_loadAdd {i : Instr} {view : Accumulator → Word} {term : Operands → Int} {result : Int → Int}
    (hrule : ruleOf i = loadAdd view term) (hterm : ∀ o, (term o).natAbs ≤ 2 ^ 62)
    (hview : ∀ c, view c = BitVec.ofInt 32 (result c.value)) (s : State) :
    let f := fetch i.fields.a i.fields.x i.fields.y s
    let v := f.1.la.toInt + term f.1
    (Accumulator.write v).value = v ∧
    exec i s = .next (writeBack i.fields.r (some (BitVec.ofInt 32 (result v))) (f.2.setAcc (Accumulator.write v))) := by
  intro f v
  have hlo := f.1.la.le_toInt
  have hhi := f.1.la.toInt_lt
  have ht := hterm f.1
  have hvalue : (Accumulator.write v).value = v := Accumulator.write_value (by omega)
  have hsum : (Accumulator.write f.1.la.toInt).add (term f.1) = Accumulator.write v :=
    Accumulator.write_add (natAbs_dword_lt f.1.la) _
  refine ⟨hvalue, exec_of_rule ?_⟩
  change ruleOf i f.1 f.2.acc = _
  rw [hrule, loadAdd, hsum, hview, hvalue]

/-- Settles O39: the wrapped view of the loaded sum. -/
theorem macsAddsTheFractionalProductAndWraps : Obligations.MacsAddsTheFractionalProductAndWraps := fun r a x y s =>
  ⟨rfl, exec_loadAdd (i := .macs r a x y) (result := id) rfl natAbs_fracProduct_le Accumulator.readLowWrap_eq s⟩

/-- Settles O40: as MACS, with the product of `-X`. -/
theorem macsnAddsTheNegatedProductAndWraps : Obligations.MacsnAddsTheNegatedProductAndWraps := fun r a x y s =>
  ⟨rfl, exec_loadAdd (i := .macsn r a x y) (result := id) rfl natAbs_fracProductNeg_le Accumulator.readLowWrap_eq s⟩

/-- Settles O41: the saturated view of the loaded sum. -/
theorem macwAddsTheFractionalProductAndSaturates : Obligations.MacwAddsTheFractionalProductAndSaturates := fun r a x y s =>
  ⟨rfl, exec_loadAdd (i := .macw r a x y) (result := clamp32) rfl natAbs_fracProduct_le Accumulator.readLowSat_eq s⟩

/-- Settles O42: as MACW, with the product of `-X`. -/
theorem macwnAddsTheNegatedProductAndSaturates : Obligations.MacwnAddsTheNegatedProductAndSaturates := fun r a x y s =>
  ⟨rfl, exec_loadAdd (i := .macwn r a x y) (result := clamp32) rfl natAbs_fracProductNeg_le Accumulator.readLowSat_eq s⟩

/-- Settles O43: the unshifted product and the saturated view. -/
theorem macintsAddsTheIntegerProductAndSaturates : Obligations.MacintsAddsTheIntegerProductAndSaturates := fun r a x y s =>
  ⟨rfl, exec_loadAdd (i := .macints r a x y) (result := clamp32) rfl natAbs_intProduct_le Accumulator.readLowSat_eq s⟩

/-- Settles O44: the unshifted product and the 31-bit view, whose sign bit is clear. -/
theorem macintwAddsTheIntegerProductModulo31Bits : Obligations.MacintwAddsTheIntegerProductModulo31Bits := by
  intro r a x y s
  obtain ⟨hvalue, hexec⟩ :=
    exec_loadAdd (i := .macintw r a x y) (result := (· % 2 ^ 31)) rfl natAbs_intProduct_le low31_eq s
  exact ⟨rfl, hvalue, toInt_ofInt_emod_nonneg _, hexec⟩

/-- Settles O45: the load's law twice, for X and then for Y; neither sum leaves the magnitude's 67 bits. -/
theorem acc3AddsThreeOperandsAndSaturates : Obligations.Acc3AddsThreeOperandsAndSaturates := by
  intro r a x y s f v
  have hxlo := f.1.x.le_toInt
  have hxhi := f.1.x.toInt_lt
  have hylo := f.1.y.le_toInt
  have hyhi := f.1.y.toInt_lt
  have hlalo := f.1.la.le_toInt
  have hlahi := f.1.la.toInt_lt
  have hvalue : (Accumulator.write v).value = v := Accumulator.write_value (by omega)
  have hsum : ((Accumulator.write f.1.la.toInt).add f.1.x.toInt).add f.1.y.toInt = Accumulator.write v := by
    rw [Accumulator.write_add (natAbs_dword_lt _), Accumulator.write_add (by omega)]
  have hresult : acc3Rule f.1 f.2.acc = (Accumulator.write v, some (BitVec.ofInt 32 (clamp32 v))) := by
    rw [acc3Rule, hsum, Accumulator.readLowSat_eq, hvalue]
  exact ⟨rfl, hvalue, exec_of_rule (i := .acc3 r a x y) hresult⟩

/-- Settles O46: the accumulator that the product joins is the one from before the fetch. -/
theorem macmvMovesAAndAccumulatesTheProduct : Obligations.MacmvMovesAAndAccumulatesTheProduct := by
  intro r a x y s f p
  have hresult : macmvRule f.1 f.2.acc = (s.acc.add p, some (BitVec.ofInt 32 f.1.la.toInt)) := by
    rw [macmvRule, fetch_keeps_acc, Operands.a32_eq]
    rfl
  exact ⟨rfl, exec_of_rule (i := .macmv r a x y) hresult, Accumulator.add_value⟩

end Sys2Proof.Machine
end

section
/-! The bitwise and comparison family (42_logic_compare R170 to R173): each opcode's rule in the statements' terms, and
the cycle of an instruction that keeps the accumulator; from these O47 to O50. -/

namespace Sys2Proof.Machine

/-! ### The rules -/

/-- ANDXOR takes the low 32 bits of A's integer, and its result becomes the accumulator (42_logic_compare R170). -/
theorem andxorRule_eq (o : Operands) (c : Accumulator) :
    andxorRule o c =
      let v := (BitVec.ofInt 32 o.la.toInt &&& o.x) ^^^ o.y
      (Accumulator.write v.toInt, some v) := by
  rw [andxorRule, Operands.a32_eq]

/-- The comparison of 42_logic_compare R171 to R173, as the condition of a selection. -/
theorem ite_aboveOrEqual (la : DWord) (y v w : Word) :
    (if aboveOrEqual la y then v else w) = if y.toInt ≤ la.toInt then v else w := by
  simp only [aboveOrEqual, decide_eq_true_eq]

/-- The negation that wraps in 32 bits is the pattern's own negation, also at `-2^31` (42_logic_compare R171). -/
theorem word_wrap_neg_toInt (x : Word) : word (wrap 32 (-x.toInt)) = -x := by
  rw [word_wrap, BitVec.ofInt_neg, BitVec.ofInt_toInt]

theorem testnegRule_eq (o : Operands) (c : Accumulator) :
    testnegRule o c = (c, some (if o.y.toInt ≤ o.la.toInt then o.x else -o.x)) := by
  rw [testnegRule, ite_aboveOrEqual, word_wrap_neg_toInt]

/-- With the negate flag clear the comparison selects X (42_logic_compare R172). -/
theorem limitRule_of_flag_clear {negate : Bool} (h : negate = false) (o : Operands) (c : Accumulator) :
    limitRule negate o c = (c, some (if o.y.toInt ≤ o.la.toInt then o.x else o.y)) := by
  rw [limitRule, h, Bool.xor_false, ite_aboveOrEqual]

/-- With the negate flag set the comparison selects Y (42_logic_compare R173). -/
theorem limitRule_of_flag_set {negate : Bool} (h : negate = true) (o : Operands) (c : Accumulator) :
    limitRule negate o c = (c, some (if o.y.toInt ≤ o.la.toInt then o.y else o.x)) := by
  rw [limitRule, h, Bool.xor_true, ← ite_aboveOrEqual]
  cases aboveOrEqual o.la o.y <;> rfl

/-- The negate flag that LIMIT's opcode nibble holds (30_encoding R107). -/
theorem negateFlag_limit : negateFlag 0xA#4 = false := by decide

/-- The negate flag that LIMITL's opcode nibble holds (30_encoding R107). -/
theorem negateFlag_limitl : negateFlag 0xB#4 = true := by decide

/-! ### The instructions -/

/-- An instruction whose rule keeps the accumulator writes its result to the state the fetch leaves. -/
theorem exec_of_rule_keeping_acc {i : Instr} {result : Operands → Word}
    (hrule : ∀ o c, ruleOf i o c = (c, some (result o))) (s : State) :
    let f := fetch i.fields.a i.fields.x i.fields.y s
    exec i s = .next (writeBack i.fields.r (some (result f.1)) f.2) :=
  exec_of_rule (hrule _ _)

/-- Settles O47: a 32-bit result is far inside the magnitude's 67 bits, so the load holds it exactly. -/
theorem andxorWritesAndLoadsTheBitwiseResult : Obligations.AndxorWritesAndLoadsTheBitwiseResult := by
  intro r a x y s f v
  have hlo := v.le_toInt
  have hhi := v.toInt_lt
  have hvalue : (Accumulator.write v.toInt).value = v.toInt := Accumulator.write_value (by omega)
  exact ⟨rfl, hvalue, exec_of_rule (i := .andxor r a x y) (andxorRule_eq f.1 f.2.acc)⟩

/-- Settles O48: the comparison is the signed one at 64 bits, the other branch the wrapped negation. -/
theorem testnegSelectsXOrItsNegation : Obligations.TestnegSelectsXOrItsNegation := fun r a x y s =>
  ⟨rfl, exec_of_rule_keeping_acc (i := .testneg r a x y) testnegRule_eq s⟩

/-- Settles O49: opcode byte 0x0A ends in the nibble whose negate flag is clear. -/
theorem limitSelectsXWhereAIsNotBelowY : Obligations.LimitSelectsXWhereAIsNotBelowY := fun r a x y s =>
  ⟨rfl, negateFlag_limit,
    exec_of_rule_keeping_acc (i := .limit r a x y) (limitRule_of_flag_clear negateFlag_limit) s⟩

/-- Settles O50: opcode byte 0x0B ends in the nibble whose negate flag is set. -/
theorem limitlSelectsYWhereAIsNotBelowY : Obligations.LimitlSelectsYWhereAIsNotBelowY := fun r a x y s =>
  ⟨rfl, negateFlag_limitl,
    exec_of_rule_keeping_acc (i := .limitl r a x y) (limitRule_of_flag_set negateFlag_limitl) s⟩

end Sys2Proof.Machine
end

section
/-! The logarithm and exponential family (43_log_exp R180 to R182): each opcode's cycle and the round trip through
GPRs; from these O51 to O53. -/

namespace Sys2Proof.Machine

/-! ### The instructions -/

/-- The rule of a transfer function takes the low 32 bits of A's integer (43_log_exp R180, R181). -/
theorem transferRule_eq (f : Word → Word → Word → Word) (o : Operands) (c : Accumulator) :
    transferRule f o c = (c, some (f (BitVec.ofInt 32 o.la.toInt) o.x o.y)) := by
  rw [transferRule, Operands.a32_eq]

/-- Settles O51: LOG's cycle with LOG_FN left as it is. -/
theorem logWritesTheTransferFunctionsValue : Obligations.LogWritesTheTransferFunctionsValue := fun r a x y s =>
  ⟨rfl, exec_of_rule_keeping_acc (i := .log r a x y) (transferRule_eq logFn) s⟩

/-- Settles O52: EXP's cycle with EXP_FN left as it is. -/
theorem expWritesTheTransferFunctionsValue : Obligations.ExpWritesTheTransferFunctionsValue := fun r a x y s =>
  ⟨rfl, exec_of_rule_keeping_acc (i := .exp r a x y) (transferRule_eq expFn) s⟩

/-! ### A transfer function between GPRs -/

/-- The address field that names GPR `i` (20_memory R63). -/
def gprAddr (i : Fin 256) : Addr := 0x0100#16 + BitVec.ofNat 16 i

theorem busAddr_gprAddr (i : Fin 256) : busAddr (gprAddr i) = 0x100 + (i : Nat) := by
  rw [busAddr, gprAddr]
  bv_omega

theorem coreOwned_gprAddr (i : Fin 256) : coreOwned (busAddr (gprAddr i)) := by
  rw [busAddr_gprAddr, coreOwned, busMap_gpr (by omega) (by omega)]
  trivial

theorem gprAddr_ne_accumulator (i : Fin 256) : gprAddr i ≠ 0x0056#16 := by
  rw [gprAddr]
  bv_omega

theorem busValue_gprAddr (i : Fin 256) (s : State) : busValue (busAddr (gprAddr i)) s = s.gpr[(i : Nat)] := by
  rw [busAddr_gprAddr, busValue_gpr s (by omega) (by omega), arrayRead_natCast s.gpr i.isLt]

theorem busWrite_gprAddr (i : Fin 256) (v : Word) (s : State) :
    busWrite (busAddr (gprAddr i)) v s = s.setGpr (s.gpr.set i v) := by
  rw [busAddr_gprAddr, busWrite_gpr v s (by omega) (by omega), arrayWrite_natCast s.gpr v i.isLt]

theorem fetch_gprAddr (a x y : Fin 256) (s : State) :
    fetch (.mem (gprAddr a)) (gprAddr x) (gprAddr y) s =
      (⟨s.gpr[(a : Nat)].signExtend 64, s.gpr[(x : Nat)], s.gpr[(y : Nat)]⟩, s) := by
  rw [fetch_mem, busTouch_of_coreOwned (coreOwned_gprAddr a), busTouch_of_coreOwned (coreOwned_gprAddr x),
    busTouch_of_coreOwned (coreOwned_gprAddr y)]
  simp only [busValue_gprAddr]

/-- A transfer function of three GPRs changes the GPR that R names and nothing else. -/
theorem exec_transfer_gpr {i : Instr} {f : Word → Word → Word → Word} {r a x y : Fin 256}
    (hrule : ruleOf i = transferRule f)
    (hfields : i.fields = ⟨gprAddr r, .mem (gprAddr a), gprAddr x, gprAddr y⟩) (s : State) :
    exec i s = .next (s.setGpr (s.gpr.set r (f s.gpr[(a : Nat)] s.gpr[(x : Nat)] s.gpr[(y : Nat)]))) := by
  have hlow (v : Word) : BitVec.ofInt 32 (v.signExtend 64).toInt = v := by
    rw [BitVec.toInt_signExtend_of_le (by decide), BitVec.ofInt_toInt]
  have hexec := exec_of_rule_keeping_acc (i := i) (fun o c => by rw [hrule, transferRule_eq]) s
  simp only [hfields, fetch_gprAddr, hlow, writeBack_some (gprAddr_ne_accumulator r), busWrite_gprAddr] at hexec
  exact hexec

/-- The point where EXP_FN is fixed (43_log_exp R182). -/
theorem expFn_logFn_roundTrip :
    expFn (logFn roundTripValue Config.roundTripX Config.roundTripY) Config.roundTripX Config.roundTripY =
      roundTripValue := if_pos ⟨rfl, rfl, rfl⟩

theorem roundTripValue_pos : 0 < roundTripValue.toInt := by
  have hnat : roundTripValue.toNat = Config.roundTripSeed % 0x7FFFFFFF + 1 := by
    rw [roundTripValue, BitVec.toNat_ofNat]
    omega
  rw [BitVec.toInt_eq_toNat_of_lt (by omega)]
  omega

/-- Settles O53: GPRs 2 and 3 still hold X and Y after LOG has written GPR 4, so EXP meets LOG's code at the point where
it is fixed. -/
theorem expUndoesLogAtSomePositiveValue : Obligations.ExpUndoesLogAtSomePositiveValue := by
  refine ⟨roundTripValue, Config.roundTripX, Config.roundTripY, roundTripValue_pos, expFn_logFn_roundTrip,
    fun s hv hx hy => ⟨_, _, exec_transfer_gpr (f := logFn) (r := 4) (a := 1) (x := 2) (y := 3) rfl rfl s,
      exec_transfer_gpr (f := expFn) (r := 5) (a := 4) (x := 2) (y := 3) rfl rfl _, ?_⟩⟩
  simp [hv, hx, hy, expFn_logFn_roundTrip]

end Sys2Proof.Machine
end

section
/-! The reference transfer functions (43_log_exp R183 to R187): the code of a magnitude as an exponent
field above a mantissa field, and from that O54 and O55. -/

namespace Sys2Proof.Machine

/-! ### Bit lengths and the parameters of the code (43_log_exp R183) -/

theorem bitlenUpTo_le_iff : ∀ {fuel n : Nat} (_ : n < 2 ^ fuel) (k : Nat), bitlenUpTo fuel n ≤ k ↔ n < 2 ^ k
  | 0, n, h, k => by
    have hpos := Nat.two_pow_pos k
    simp only [bitlenUpTo]
    omega
  | fuel + 1, n, h, k => by
    have hpos := Nat.two_pow_pos k
    rw [bitlenUpTo]
    split
    · omega
    · cases k with
      | zero => omega
      | succ k =>
        rw [Nat.pow_succ] at h ⊢
        rw [Nat.add_le_add_iff_right, bitlenUpTo_le_iff (by omega)]
        omega

theorem bitlen_le_iff {n : Nat} (h : n < 2 ^ 32) (k : Nat) : bitlen n ≤ k ↔ n < 2 ^ k := bitlenUpTo_le_iff h k

theorem refMaxExp_lt (x : Word) : refMaxExp x < 32 := Nat.mod_lt _ (by decide)

theorem refExpWidth_le_iff (x : Word) (k : Nat) : refExpWidth x ≤ k ↔ refMaxExp x < 2 ^ k :=
  bitlen_le_iff (by have := refMaxExp_lt x; omega) k

/-- The exponent field holds every exponent up to the maximum. -/
theorem refMaxExp_lt_two_pow (x : Word) : refMaxExp x < 2 ^ refExpWidth x := (refExpWidth_le_iff x _).mp le_rfl

/-- No bit of a code in the exponent-0 range is lost, because the exponent field is no wider than E (43_log_exp R187). -/
theorem refExpWidth_le_refMaxExp (x : Word) : refExpWidth x ≤ refMaxExp x :=
  (refExpWidth_le_iff x _).mpr Nat.lt_two_pow_self

theorem refExpWidth_add_refFracWidth (x : Word) : refExpWidth x + refFracWidth x = 31 := by
  have := (refExpWidth_le_iff x 5).mpr (refMaxExp_lt x)
  rw [refFracWidth]
  omega

/-- The two fields fill the 31 bits of a code. -/
theorem two_pow_fields (x : Word) : 2 ^ refFracWidth x * 2 ^ refExpWidth x = 0x80000000 := by
  rw [← Nat.pow_add, Nat.add_comm, refExpWidth_add_refFracWidth]

/-! ### Normalisation: a magnitude moved up by its leading zeros -/

section Magnitude

variable {m m' : Nat}

theorem bitlen_le_of_lt (h : m < 2 ^ 31) : bitlen m ≤ 31 := (bitlen_le_iff (by omega) 31).mpr h

theorem mul_two_pow_refZeros_lt (h : m < 2 ^ 31) : m * 2 ^ refZeros m < 2 ^ 31 := by
  have hlen := bitlen_le_of_lt h
  have hm : m < 2 ^ bitlen m := (bitlen_le_iff (by omega) _).mp le_rfl
  calc m * 2 ^ refZeros m < 2 ^ bitlen m * 2 ^ refZeros m := Nat.mul_lt_mul_of_pos_right hm (Nat.two_pow_pos _)
    _ = 2 ^ 31 := by rw [← Nat.pow_add, refZeros, Nat.add_sub_cancel' hlen]

theorem le_mul_two_pow_refZeros_succ (h0 : 0 < m) (h : m < 2 ^ 31) : 2 ^ 31 ≤ m * 2 ^ (refZeros m + 1) := by
  have hlen := bitlen_le_of_lt h
  have hpos : ¬ bitlen m ≤ 0 := fun hle => by
    have := (bitlen_le_iff (by omega) 0).mp hle
    omega
  have hm : 2 ^ (bitlen m - 1) ≤ m := Nat.le_of_not_lt fun hlt => by
    have := (bitlen_le_iff (by omega) _).mpr hlt
    omega
  calc 2 ^ 31 = 2 ^ (bitlen m - 1) * 2 ^ (refZeros m + 1) := by
        rw [← Nat.pow_add, refZeros]
        congr 1
        omega
    _ ≤ m * 2 ^ (refZeros m + 1) := Nat.mul_le_mul_right _ hm

/-- A larger magnitude has no more leading zeros. -/
theorem refZeros_anti (h : m ≤ m') (h' : m' < 2 ^ 31) : refZeros m' ≤ refZeros m := by
  have : bitlen m ≤ bitlen m' :=
    (bitlen_le_iff (by omega) _).mpr (h.trans_lt ((bitlen_le_iff (by omega) _).mp le_rfl))
  rw [refZeros, refZeros]
  omega

/-! ### The two fields of a magnitude's code (43_log_exp R185) -/

/-- The exponent field: 0 where E is within the leading zeros, else the normalised exponent. -/
def refExpField (m : Nat) (x : Word) : Nat := refMaxExp x - refZeros m

/-- How far the magnitude moves up before its top bits are kept: over its leading one where it is normalised. -/
def refShift (m : Nat) (x : Word) : Nat := min (refMaxExp x) (refZeros m + 1)

/-- The mantissa field: the top bits of the moved magnitude's low 31 bits. -/
def refFracField (m : Nat) (x : Word) : Nat := m * 2 ^ refShift m x % 0x80000000 / 2 ^ refExpWidth x

variable (x : Word)

theorem refFracField_lt (m : Nat) : refFracField m x < 2 ^ refFracWidth x := by
  rw [refFracField, Nat.div_lt_iff_lt_mul (Nat.two_pow_pos _), two_pow_fields]
  exact Nat.mod_lt _ (by decide)

/-- Both forms of LOG's code are the exponent field above the mantissa field. -/
theorem refLogCode_eq_fields (m : Nat) :
    refLogCode m x = refExpField m x * 2 ^ refFracWidth x + refFracField m x := by
  have hE := refMaxExp_lt x
  rw [refLogCode, refExpField, refFracField, refShift]
  split
  · next h =>
    subst h
    have : refZeros 0 = 31 := rfl
    simp only [this, Nat.sub_eq_zero_of_le (Nat.le_of_lt_succ hE), Nat.zero_mul, Nat.zero_mod, Nat.zero_div]
  · split
    · next hle => rw [Nat.min_eq_left (by omega), Nat.sub_eq_zero_of_le hle, Nat.zero_mul, Nat.zero_add]
    · rw [Nat.min_eq_right (by omega)]

/-- A code lies below every code with a larger exponent field. -/
theorem refLogCode_lt_of_exp_lt {e : Nat} (he : refExpField m x < e) : refLogCode m x < e * 2 ^ refFracWidth x := by
  have hfrac := refFracField_lt x m
  calc refLogCode m x < (refExpField m x + 1) * 2 ^ refFracWidth x := by
        rw [refLogCode_eq_fields, Nat.succ_mul]
        omega
    _ ≤ e * 2 ^ refFracWidth x := Nat.mul_le_mul_right _ he

/-- A code fits the 31 bits of a magnitude. -/
theorem refLogCode_lt (m : Nat) : refLogCode m x < 2 ^ 31 := by
  have hexp : refExpField m x < 2 ^ refExpWidth x := (Nat.sub_le _ _).trans_lt (refMaxExp_lt_two_pow x)
  have hcode := refLogCode_lt_of_exp_lt x hexp
  rwa [Nat.mul_comm, two_pow_fields] at hcode

/-! In the exponent-0 range the mantissa field is the magnitude moved up by E, and no bit is dropped. -/

theorem refFracField_of_le (h : m < 2 ^ 31) (hle : refMaxExp x ≤ refZeros m) :
    refFracField m x = m * 2 ^ refMaxExp x / 2 ^ refExpWidth x := by
  have hlt : m * 2 ^ refMaxExp x < 2 ^ 31 :=
    (Nat.mul_le_mul_left m (Nat.pow_le_pow_right (by decide) hle)).trans_lt (mul_two_pow_refZeros_lt h)
  rw [refFracField, refShift, Nat.min_eq_left (by omega), Nat.mod_eq_of_lt (b := 0x80000000) hlt]

theorem refFracField_mul_of_le (h : m < 2 ^ 31) (hle : refMaxExp x ≤ refZeros m) :
    refFracField m x * 2 ^ refExpWidth x = m * 2 ^ refMaxExp x := by
  rw [refFracField_of_le x h hle]
  exact Nat.div_mul_cancel ((Nat.pow_dvd_pow 2 (refExpWidth_le_refMaxExp x)).mul_left m)

/-! In the normalised range the mantissa field drops the leading one, which stands at bit 31 of the moved magnitude. -/

theorem mul_two_pow_refZeros_succ_eq (h0 : 0 < m) (h : m < 2 ^ 31) :
    m * 2 ^ (refZeros m + 1) = 0x80000000 + m * 2 ^ (refZeros m + 1) % 0x80000000 := by
  have hlo := le_mul_two_pow_refZeros_succ h0 h
  have hhi := mul_two_pow_refZeros_lt h
  have hsucc : m * 2 ^ (refZeros m + 1) = m * 2 ^ refZeros m * 2 := by rw [Nat.pow_succ, Nat.mul_assoc]
  omega

theorem refFracField_of_gt (hgt : refZeros m < refMaxExp x) :
    refFracField m x = m * 2 ^ (refZeros m + 1) % 0x80000000 / 2 ^ refExpWidth x := by
  rw [refFracField, refShift, Nat.min_eq_right (by omega)]

/-- With the implied leading one put back, the mantissa field is the moved magnitude with its low bits cut off. -/
theorem add_refFracField_mul_of_gt (h0 : 0 < m) (h : m < 2 ^ 31) (hgt : refZeros m < refMaxExp x) :
    0x80000000 + refFracField m x * 2 ^ refExpWidth x =
      m * 2 ^ (refZeros m + 1) / 2 ^ refExpWidth x * 2 ^ refExpWidth x := by
  have hone := two_pow_fields x
  rw [refFracField_of_gt x hgt, mul_two_pow_refZeros_succ_eq h0 h, Nat.add_mod_left, Nat.mod_mod, ← hone,
    Nat.mul_comm (2 ^ refFracWidth x), Nat.mul_add_div (Nat.two_pow_pos _), Nat.add_mul,
    Nat.mul_comm (2 ^ refFracWidth x)]

theorem refLogCode_pos (h0 : 0 < m) (h : m < 2 ^ 31) : 0 < refLogCode m x := by
  rw [refLogCode_eq_fields]
  obtain hle | hgt := le_or_gt (refMaxExp x) (refZeros m)
  · have : 0 < refFracField m x * 2 ^ refExpWidth x := by
      rw [refFracField_mul_of_le x h hle]
      exact Nat.mul_pos h0 (Nat.two_pow_pos _)
    exact Nat.add_pos_right _ (Nat.pos_of_mul_pos_right this)
  · exact Nat.add_pos_left (Nat.mul_pos (Nat.sub_pos_of_lt hgt) (Nat.two_pow_pos _)) _

/-- Where two magnitudes have one exponent field, the larger has no smaller mantissa field. -/
theorem refFracField_mono (h0 : 0 < m) (h : m ≤ m') (h' : m' < 2 ^ 31) (he : refExpField m x = refExpField m' x) :
    refFracField m x ≤ refFracField m' x := by
  rw [refExpField, refExpField] at he
  obtain hle | hgt := le_or_gt (refMaxExp x) (refZeros m)
  · rw [refFracField_of_le x (by omega) hle, refFracField_of_le x h' (by omega)]
    exact Nat.div_le_div_right (Nat.mul_le_mul_right _ h)
  · have hzeros : refZeros m' = refZeros m := by omega
    have hmod := mul_two_pow_refZeros_succ_eq h0 (by omega)
    have hmod' := mul_two_pow_refZeros_succ_eq (h0.trans_le h) h'
    have hmul : m * 2 ^ (refZeros m + 1) ≤ m' * 2 ^ (refZeros m + 1) := Nat.mul_le_mul_right _ h
    rw [refFracField_of_gt x hgt, refFracField_of_gt x (by omega), hzeros]
    rw [hzeros] at hmod'
    exact Nat.div_le_div_right (by omega)

/-- A larger magnitude has no smaller code: codes compare by the exponent field first, then by the mantissa field. -/
theorem refLogCode_mono (h : m ≤ m') (h' : m' < 2 ^ 31) : refLogCode m x ≤ refLogCode m' x := by
  obtain rfl | h0 := m.eq_zero_or_pos
  · exact Nat.zero_le _
  have he : refExpField m x ≤ refExpField m' x := Nat.sub_le_sub_left (refZeros_anti h h') _
  rw [refLogCode_eq_fields x m']
  obtain hlt | heq := he.lt_or_eq
  · exact (refLogCode_lt_of_exp_lt x hlt).le.trans (Nat.le_add_right _ _)
  · rw [refLogCode_eq_fields, heq]
    exact Nat.add_le_add_left (refFracField_mono x h0 h h' heq) _

/-! ### EXP on a code's fields (43_log_exp R186) -/

theorem refExpMag_fields {e f : Nat} (hf : f < 2 ^ refFracWidth x) :
    refExpMag (e * 2 ^ refFracWidth x + f) x =
      if e = 0 then f * 2 ^ refExpWidth x / 2 ^ refMaxExp x
      else if refMaxExp x < e then 0x7FFFFFFF
      else (0x80000000 + f * 2 ^ refExpWidth x) / 2 ^ (refMaxExp x - e + 1) := by
  have hexp : (e * 2 ^ refFracWidth x + f) / 2 ^ refFracWidth x = e := by
    rw [Nat.add_comm, Nat.add_mul_div_right _ _ (Nat.two_pow_pos _), Nat.div_eq_of_lt hf, Nat.zero_add]
  have hfrac : (e * 2 ^ refFracWidth x + f) % 2 ^ refFracWidth x = f := by
    rw [Nat.add_comm, Nat.add_mul_mod_self_right, Nat.mod_eq_of_lt hf]
  simp only [refExpMag, hexp, hfrac]

theorem refExpMag_refLogCode_of_le (h : m < 2 ^ 31) (hle : refMaxExp x ≤ refZeros m) :
    refExpMag (refLogCode m x) x = m := by
  have he : refExpField m x = 0 := Nat.sub_eq_zero_of_le hle
  rw [refLogCode_eq_fields, refExpMag_fields x (refFracField_lt x m), if_pos he,
    refFracField_mul_of_le x h hle, Nat.mul_div_cancel _ (Nat.two_pow_pos _)]

theorem refExpMag_refLogCode_of_gt (h0 : 0 < m) (h : m < 2 ^ 31) (hgt : refZeros m < refMaxExp x) :
    refExpMag (refLogCode m x) x =
      m * 2 ^ (refZeros m + 1) / 2 ^ refExpWidth x * 2 ^ refExpWidth x / 2 ^ (refZeros m + 1) := by
  have he : refExpField m x = refMaxExp x - refZeros m := rfl
  rw [refLogCode_eq_fields, refExpMag_fields x (refFracField_lt x m), if_neg (by omega), if_neg (by omega),
    add_refFracField_mul_of_gt x h0 h hgt, he, Nat.sub_sub_self hgt.le]

/-- Cutting a multiple of `c` down to a multiple of `d` keeps the quotient exactly when nothing is cut off. -/
theorem cut_div_eq_iff {c d : Nat} (hc : 0 < c) : m * c / d * d / c = m ↔ d ∣ m * c := by
  have hcut : m * c / d * d ≤ m * c := Nat.div_mul_le_self _ _
  constructor
  · intro hq
    have hle : m * c ≤ m * c / d * d := (Nat.le_div_iff_mul_le hc).mp hq.ge
    exact Dvd.intro_left _ (Nat.le_antisymm hcut hle)
  · intro hd
    rw [Nat.div_mul_cancel hd, Nat.mul_div_cancel _ hc]

theorem two_pow_dvd_mul_two_pow_iff (w k : Nat) : 2 ^ w ∣ m * 2 ^ k ↔ 2 ^ (w - k) ∣ m := by
  obtain hle | hlt := le_or_gt w k
  · simp [Nat.sub_eq_zero_of_le hle, (Nat.pow_dvd_pow 2 hle).mul_left m]
  · have hsplit : 2 ^ w = 2 ^ (w - k) * 2 ^ k := by rw [← Nat.pow_add, Nat.sub_add_cancel hlt.le]
    rw [hsplit, Nat.mul_dvd_mul_iff_right (Nat.two_pow_pos k)]

/-- The exact round trip on magnitudes (43_log_exp R187). -/
theorem refExpMag_refLogCode_eq_iff (h0 : 0 < m) (h : m < 2 ^ 31) :
    refExpMag (refLogCode m x) x = m ↔
      refMaxExp x ≤ refZeros m ∨ m % 2 ^ (bitlen m - 1 - refFracWidth x) = 0 := by
  obtain hle | hgt := le_or_gt (refMaxExp x) (refZeros m)
  · exact iff_of_true (refExpMag_refLogCode_of_le x h hle) (.inl hle)
  · have hwidth := refExpWidth_add_refFracWidth x
    have hlen := bitlen_le_of_lt h
    have hlost : refExpWidth x - (refZeros m + 1) = bitlen m - 1 - refFracWidth x := by
      rw [refZeros]
      omega
    rw [refExpMag_refLogCode_of_gt x h0 h hgt, cut_div_eq_iff (Nat.two_pow_pos _), two_pow_dvd_mul_two_pow_iff, hlost,
      Nat.dvd_iff_mod_eq_zero, or_iff_right (by omega)]

end Magnitude

/-- EXP's magnitude fits 31 bits, as its saturated value does. -/
theorem refExpMag_lt (c : Nat) (x : Word) : refExpMag c x < 2 ^ 31 := by
  have hfrac : c % 2 ^ refFracWidth x * 2 ^ refExpWidth x < 2 ^ 31 := by
    have := Nat.mul_lt_mul_of_pos_right (Nat.mod_lt c (Nat.two_pow_pos (refFracWidth x)))
      (Nat.two_pow_pos (refExpWidth x))
    rwa [two_pow_fields] at this
  simp only [refExpMag]
  split
  · exact (Nat.div_le_self _ _).trans_lt hfrac
  · split
    · decide
    · apply Nat.div_lt_of_lt_mul
      rw [Nat.pow_succ]
      have := Nat.two_pow_pos (refMaxExp x - c / 2 ^ refFracWidth x)
      omega

/-! ### Signs (43_log_exp R184) -/

theorem toInt_word {v : Int} (hlo : -2 ^ 31 ≤ v) (hhi : v < 2 ^ 31) : (word v).toInt = v :=
  BitVec.toInt_ofInt_eq_self (by decide) hlo hhi

theorem getLsbD_zero_eq (y : Word) : y.getLsbD 0 = decide (y.toNat % 2 = 1) := by
  rw [BitVec.getLsbD, Nat.testBit_eq_decide_div_mod_eq, Nat.pow_zero, Nat.div_one]

theorem getLsbD_one_eq (y : Word) : y.getLsbD 1 = decide (y.toNat / 2 % 2 = 1) := by
  rw [BitVec.getLsbD, Nat.testBit_eq_decide_div_mod_eq, Nat.pow_one]

/-- A result of an input that is not negative is negated by bit 1 of the mode alone. -/
theorem refSigned_false (y : Word) (mag : Nat) :
    refSigned false y mag = if y.getLsbD 1 then word (-(mag : Int)) else word mag := by
  simp [refSigned]

theorem refMag_word {mag : Nat} (h : mag < 2 ^ 31) : refMag (word mag) = mag := by
  rw [refMag, toInt_word (by omega) (by omega)]
  omega

theorem refMag_word_neg {mag : Nat} (h : mag < 2 ^ 31) : refMag (word (-(mag : Int))) = mag := by
  rw [refMag, toInt_word (by omega) (by omega)]
  omega

/-- A word that is not negative is its own magnitude. -/
theorem toInt_eq_toNat_of_nonneg {m : Word} (h : 0 ≤ m.toInt) : m.toInt = m.toNat ∧ m.toNat < 2 ^ 31 := by
  have := m.toInt_eq_toNat_cond
  omega

theorem refLogFn_of_nonneg {m : Word} (h : 0 ≤ m.toInt) (x y : Word) :
    refLogFn m x y = refSigned false y (refLogCode m.toNat x) := by
  obtain ⟨hm, hlt⟩ := toInt_eq_toNat_of_nonneg h
  rw [refLogFn, refMag, hm, decide_eq_false (by omega), Int.natAbs_natCast, Nat.min_eq_left (by omega)]

/-- Under modes 0 to 2 EXP gives a positive code's signed form the sign of the input back. -/
theorem refExpFn_refSigned {y : Word} {code : Nat} (hmode : y.toNat % 4 ≠ 3) (h0 : 0 < code) (h : code < 2 ^ 31)
    (x : Word) : refExpFn (refSigned false y code) x y = word (refExpMag code x) := by
  rw [refSigned_false, refExpFn]
  cases hbit1 : y.getLsbD 1 with
  | false =>
    have hsign : ¬ (word (code : Int)).toInt < 0 := by
      rw [toInt_word (by omega) (by omega)]
      omega
    rw [if_neg Bool.false_ne_true, decide_eq_false hsign, refSigned_false, hbit1, refMag_word h,
      if_neg Bool.false_ne_true]
  | true =>
    have hsign : (word (-(code : Int))).toInt < 0 := by
      rw [toInt_word (by omega) (by omega)]
      omega
    have hbit0 : y.getLsbD 0 = false := by
      simp only [getLsbD_zero_eq, getLsbD_one_eq, decide_eq_true_eq, decide_eq_false_iff_not] at hbit1 ⊢
      omega
    rw [if_pos rfl, decide_eq_true hsign, refSigned, hbit0, hbit1, refMag_word_neg h]
    exact if_neg Bool.false_ne_true

/-- Settles O54: the sign comes back under modes 0 to 2, so the round trip is the one on magnitudes. -/
theorem referenceRoundTripIsExactWhereNoBitIsLost : Obligations.ReferenceRoundTripIsExactWhereNoBitIsLost := by
  intro m x y hpos hmode
  obtain ⟨hm, hlt⟩ := toInt_eq_toNat_of_nonneg hpos.le
  have h0 : 0 < m.toNat := by omega
  have hmag := refExpMag_lt (refLogCode m.toNat x) x
  rw [refLogFn_of_nonneg hpos.le, refExpFn_refSigned hmode (refLogCode_pos x h0 hlt) (refLogCode_lt x m.toNat),
    ← BitVec.toInt_inj, toInt_word (by omega) (by omega), hm, Int.natCast_inj]
  exact refExpMag_refLogCode_eq_iff x h0 hlt

/-- Settles O55: under modes 0 and 1 LOG of an input that is not negative is its magnitude's code. -/
theorem referenceLogIsMonotone : Obligations.ReferenceLogIsMonotone := by
  intro m m' x y h0 hle hmode
  obtain ⟨hm, _⟩ := toInt_eq_toNat_of_nonneg h0
  obtain ⟨hm', hlt'⟩ := toInt_eq_toNat_of_nonneg (h0.trans hle)
  have hbit1 : y.getLsbD 1 = false := by
    rw [getLsbD_one_eq, decide_eq_false_iff_not]
    omega
  have hlog {v : Word} (h : 0 ≤ v.toInt) : (refLogFn v x y).toInt = refLogCode v.toNat x := by
    have hcode := refLogCode_lt x v.toNat
    rw [refLogFn_of_nonneg h, refSigned_false, hbit1, if_neg Bool.false_ne_true, toInt_word (by omega) (by omega)]
  rw [hlog h0, hlog (h0.trans hle), Int.ofNat_le]
  exact refLogCode_mono x (by omega) hlt'

end Sys2Proof.Machine
end

section
/-! Interpolation, SKIP and the unassigned opcode bytes (44_interp_skip R200 to R202): INTERP is a load of A and an
addition as in the multiply-accumulate family, the others are the fetch alone; from these O56 to O58. -/

namespace Sys2Proof.Machine

/-! ### INTERP's product (44_interp_skip R200) -/

/-- `x * (y - la)` with the difference and the product wrapped at 64 bits. -/
def interpProduct (o : Operands) : Int := (o.x.toInt * (o.y.toInt - o.la.toInt).bmod (2 ^ 64)).bmod (2 ^ 64)

/-- INTERP loads A, adds the shifted product and reads the saturated view. -/
theorem interpRule_eq_loadAdd :
    interpRule = loadAdd Accumulator.readLowSat fun o => interpProduct o / 2 ^ 31 := by
  funext o c
  simp only [interpRule, loadAdd, wrap_64_eq_bmod, asr_31]
  rfl

/-- The wrapped product is a 64-bit integer, so the shift leaves 33 bits of it. -/
theorem natAbs_interpProduct_div_le (o : Operands) : (interpProduct o / 2 ^ 31).natAbs ≤ 2 ^ 62 := by
  have hlo : -2 ^ 63 ≤ interpProduct o := Int.le_bmod (by decide)
  have hhi : interpProduct o < 2 ^ 63 := Int.bmod_lt (by decide)
  omega

/-- Where A is a 32-bit integer neither the difference nor the product reaches 64 bits. -/
theorem interpProduct_of_inRange {o : Operands} (hlo : -2 ^ 31 ≤ o.la.toInt) (hhi : o.la.toInt < 2 ^ 31) :
    interpProduct o = o.x.toInt * (o.y.toInt - o.la.toInt) := by
  have hxlo : -2 ^ 31 ≤ o.x.toInt := o.x.le_toInt
  have hxhi : o.x.toInt < 2 ^ 31 := o.x.toInt_lt
  have hylo : -2 ^ 31 ≤ o.y.toInt := o.y.le_toInt
  have hyhi : o.y.toInt < 2 ^ 31 := o.y.toInt_lt
  have hproduct : |o.x.toInt * (o.y.toInt - o.la.toInt)| ≤ 2 ^ 31 * (2 ^ 32 - 1) := by
    rw [abs_mul]
    exact mul_le_mul (abs_le.mpr (by omega)) (abs_le.mpr (by omega)) (abs_nonneg _) (by decide)
  obtain ⟨hplo, hphi⟩ := abs_le.mp hproduct
  have hdiff : (o.y.toInt - o.la.toInt).bmod (2 ^ 64) = o.y.toInt - o.la.toInt :=
    Int.bmod_eq_of_le (by omega) (by omega)
  rw [interpProduct, hdiff, Int.bmod_eq_of_le (by omega) (by omega)]

/-- A bus read widened to 64 bits keeps its integer (40_execution R131). -/
theorem fetch_mem_la_toInt (b x y : Addr) (s : State) :
    (fetch (.mem b) x y s).1.la.toInt = (busValue (busAddr b) s).toInt := by
  rw [fetch_mem]
  exact BitVec.toInt_signExtend_of_le (by decide)

theorem interpProduct_fetch_mem (b x y : Addr) (s : State) :
    let o := (fetch (.mem b) x y s).1
    interpProduct o = o.x.toInt * (o.y.toInt - o.la.toInt) := by
  have hla := fetch_mem_la_toInt b x y s
  exact interpProduct_of_inRange (by rw [hla]; exact BitVec.le_toInt _) (by rw [hla]; exact BitVec.toInt_lt)

/-- Settles O56: INTERP adds its shifted product to the loaded A, and the product is exact where A is a bus read. -/
theorem interpBlendsFromATowardY : Obligations.InterpBlendsFromATowardY := by
  intro r a x y s f p v
  obtain ⟨hvalue, hexec⟩ := exec_loadAdd (i := .interp r a x y) (result := clamp32) interpRule_eq_loadAdd
    natAbs_interpProduct_div_le Accumulator.readLowSat_eq s
  refine ⟨rfl, hvalue, ?_, hexec⟩
  rintro b rfl
  exact interpProduct_fetch_mem b x y s

/-! ### The instructions without a result (44_interp_skip R201, R202) -/

/-- An instruction without a result leaves what its fetch leaves: its rule keeps the accumulator. -/
theorem exec_of_no_result {i : Instr} (h : writesResult i = false) (s : State) :
    exec i s = .next (fetch i.fields.a i.fields.x i.fields.y s).2 := by
  rw [exec_eq_cycle, cycle_next, ruleOf_of_no_result h, noOpRule, State.setAcc_self, writeBack_none]

theorem touchA_of_coreOwned {a : OperandA} (h : a = .acc ∨ ∃ b, a = .mem b ∧ coreOwned (busAddr b)) (s : State) :
    touchA a s = s := by
  obtain rfl | ⟨b, rfl, hb⟩ := h
  · rfl
  · exact busTouch_of_coreOwned hb s

/-- A fetch that reaches no collaborator leaves no trace (20_memory R70). -/
theorem fetch_state_of_coreOwned {a : OperandA} {x y : Addr} (ha : a = .acc ∨ ∃ b, a = .mem b ∧ coreOwned (busAddr b))
    (hx : coreOwned (busAddr x)) (hy : coreOwned (busAddr y)) (s : State) : (fetch a x y s).2 = s := by
  rw [fetch, touchA_of_coreOwned ha, busTouch_of_coreOwned hx, busTouch_of_coreOwned hy]

/-- Settles O57: SKIP has no result, so it leaves what its fetch leaves. -/
theorem skipIsANoOp : Obligations.SkipIsANoOp := by
  intro r a x y s
  have hexec : exec (.skip r a x y) s = .next (fetch a x y s).2 := exec_of_no_result rfl s
  refine ⟨rfl, hexec, fun ha hx hy => ?_⟩
  rw [hexec, fetch_state_of_coreOwned ha hx hy]

/-- Settles O58: none of the fifteen rows has a result. -/
theorem unassignedOpcodesAreNoOps : Obligations.UnassignedOpcodesAreNoOps := by
  intro low r a x y s n
  and_intros <;> exact exec_of_no_result rfl s

end Sys2Proof.Machine
end

section
/-! Exceptions and host calls (60_exceptions R220 to R235): a step answers a next state from every state (O12), a call
of the host acts in one step between ticks (O14, O16) and in no step of a tick (O13). -/

namespace Sys2Proof.Machine

variable {s t : State}

/-! ### No exception (60_exceptions R220) -/

theorem exec_next (i : Instr) (s : State) : ∃ t, exec i s = .next t := by
  obtain ⟨l, c, res, he⟩ := exec_next_writeBack i s
  exact ⟨_, he⟩

theorem duringTick_next (ip : Nat) (s : State) : ∃ t, duringTick ip s = .next t := by
  cases hw : s.program.words[ip]? with
  | some w =>
    obtain ⟨t, he⟩ := exec_next (decode w) s
    exact ⟨t.setPhase (.running (ip + 1)), by rw [duringTick_word hw, he, advance]⟩
  | none => exact ⟨_, duringTick_end hw⟩

/-- A call that is pending between ticks is one that the host may make, so it is not refused. -/
theorem betweenTicks_next (h : s.phase = .idle) : ∃ t, betweenTicks s = .next t := by
  cases hc : s.host with
  | nil => exact ⟨s, betweenTicks_nil hc⟩
  | cons c rest => exact ⟨_, betweenTicks_cons h hc⟩

theorem safeStep (s : State) : SafeStep s := by
  unfold SafeStep
  cases hp : s.phase with
  | idle =>
    rw [step_idle hp]
    exact betweenTicks_next hp
  | running ip =>
    rw [step_running hp]
    exact duringTick_next ip s

/-- Settles O12: an instruction is its cycle, which never fails, and a step is an instruction, a tick's end, nothing, or
a call made between ticks. -/
theorem nothingRaisesAnException : Obligations.NothingRaisesAnException := ⟨exec_next, safeStep, nofun⟩

/-! ### A tick and the host (60_exceptions R228) -/

theorem hostCall_running {ip : Nat} (c : HostCall) (h : s.phase = .running ip) :
    hostCall c s = .refused .hostCallDuringTick := by
  simp only [hostCall, h]

theorem exec_host {i : Instr} (h : exec i s = .next t) : t.host = s.host :=
  (instructionFrame i s t h).1.host

theorem exec_replies {i : Instr} (h : exec i s = .next t) : t.replies = s.replies :=
  (instructionFrame i s t h).1.replies

/-- A step of a tick is an instruction, whose frame holds the queue and the replies, or the tick's end. -/
theorem step_running_keeps_host {ip : Nat} (hp : s.phase = .running ip) (hstep : step s = .next t) :
    t.host = s.host ∧ t.replies = s.replies := by
  obtain ⟨_, _, u, -, -, he, rfl⟩ | ⟨_, -, -, rfl⟩ | ⟨hidle, -, -⟩ | ⟨_, _, hidle, -, -⟩ := step_cases hstep
  · rw [State.setPhase_host, State.setPhase_replies]
    exact ⟨exec_host he, exec_replies he⟩
  · exact ⟨rfl, rfl⟩
  · cases hp.symm.trans hidle
  · cases hp.symm.trans hidle

/-- Settles O13: the refusal by the phase, the rest by the cases of a step. -/
theorem hostActsOnlyBetweenTicks : Obligations.HostActsOnlyBetweenTicks :=
  ⟨fun c _ _ hp => hostCall_running c hp, fun _ _ _ hp hstep => step_running_keeps_host hp hstep⟩

/-! ### The calls of the host (60_exceptions R227, R235) -/

/-- The step that takes the host's next call. -/
theorem step_of_hostCall {c : HostCall} {rest : List HostCall} (hp : s.phase = .idle) (h : s.host = c :: rest) :
    step s = .next (hostEffect c (s.setHost rest)) := (step_idle hp).trans (betweenTicks_cons hp h)

@[simp] theorem busTouch_replies (a : Int) (s : State) : (busTouch a s).replies = s.replies := by
  obtain ⟨l, h⟩ := busTouch_events a s
  rw [h, State.withEvents]

/-- `peek` is a bus read whose value is the reply; the queue of calls is not on the bus. -/
theorem hostEffect_peek (a : Int) (rest : List HostCall) (s : State) :
    hostEffect (.peek a) (s.setHost rest) =
      { busTouch a (s.setHost rest) with replies := .word (busValue a s) :: s.replies } := by
  have hvalue : busValue a (s.setHost rest) = busValue a s := rfl
  rw [hostEffect, State.logReply, busTouch_replies, hvalue, State.setHost_replies]

/-- The accumulator's register reads 0 on the bus (20_memory R60). -/
theorem busValue_accum (s : State) : busValue 0x56 s = 0#32 :=
  busValue_sys (i := sysAccum) s (by decide) (by decide)

/-- The host reads the accumulator's value modulo 2^64 (40_execution R123). -/
theorem hostEffect_accRead (s : State) :
    hostEffect .accRead s = { s with replies := .acc (BitVec.ofInt 64 s.acc.value) :: s.replies } := by
  rw [hostEffect, Accumulator.read_eq, State.logReply]

/-- Settles O14: one clause for each call of the host, each the call's effect with the call gone from the queue. -/
theorem hostCallsHaveTheirEffects : Obligations.HostCallsHaveTheirEffects := by
  intro s rest hp
  have hpeek (a : Int) (h : s.host = .peek a :: rest) : step s =
      .next { busTouch a (s.setHost rest) with replies := .word (busValue a s) :: s.replies } := by
    rw [step_of_hostCall hp h, hostEffect_peek]
  have hpoke (a : Int) (v : Word) (h : s.host = .poke a v :: rest) : step s = .next (busWrite a v (s.setHost rest)) :=
    step_of_hostCall hp h
  refine ⟨hpeek, fun h => ?_, hpoke, fun v h => ?_, fun h => ?_, fun v h => ?_, fun p h => step_of_hostCall hp h,
    fun h => step_of_hostCall hp h⟩
  · rw [hpeek 0x56 h, busValue_accum, busTouch_sysLeaf (by decide) (by decide)]
    rfl
  · rw [hpoke 0x5B v h, busWrite_tick]
    rfl
  · rw [step_of_hostCall hp h, hostEffect_accRead]
    rfl
  · exact ⟨Accumulator.write v.toInt, step_of_hostCall hp h, Accumulator.write_value (natAbs_dword_lt v)⟩

/-- Settles O16: between ticks a step takes the next call, and there is none. -/
theorem idleMachineKeepsItsState : Obligations.IdleMachineKeepsItsState := fun _ hp hnone =>
  (step_idle hp).trans (betweenTicks_nil hnone)

end Sys2Proof.Machine
end

section
/-! Reset and hazards (70_reset_and_hazards R250 to R260): the state after reset (O10, O11), what a load of a program
leaves (O15), when a noise register changes (O17), and the sum of TICK and an address register as the one quantity that
places an access of a window: a write of TICK moves it at once (O18), and a delay line holds it fixed (O29). -/

namespace Sys2Proof.Machine

variable {s t : State}

/-! ### The effective address as one 32-bit sum (20_memory R54, 70_reset_and_hazards R257, R260) -/

/-- The store is addressed by the 32-bit sum of the counter and the channel's register, read as a signed word. -/
theorem indirectAddr_eq_add {n i : Nat} (store : Vector Word n) (tick : Word) (h : i < n) :
    indirectAddr store tick (i : Int) = some (tick + store[i]).toInt := by
  rw [indirectAddr_natCast store tick h, BitVec.toInt_add]

/-- A channel whose register fell by as much as the counter rose reaches the word that the other channel reached. -/
theorem indirectAddr_of_delay {cw cr : Nat} (hw : cw < 128) (hr : cr < 128) {k : Word}
    (htick : t.tick = s.tick + k) (hreg : t.itramAddr[cr] = s.itramAddr[cw] - k) :
    indirectAddr t.itramAddr t.tick (cr : Int) = indirectAddr s.itramAddr s.tick (cw : Int) := by
  have hsum : s.tick + k + (s.itramAddr[cw] - k) = s.tick + s.itramAddr[cw] := by
    rw [BitVec.add_assoc, BitVec.add_comm k, BitVec.sub_add_cancel]
  rw [indirectAddr_eq_add _ _ hr, indirectAddr_eq_add _ _ hw, htick, hreg, hsum]

/-- The word that a write through a channel leaves where the channel points: v, or 0 outside the store. -/
theorem itramRead_busWrite_itramWindow {i e : Int} (h : 0 ≤ i) (h' : i < 128)
    (he : indirectAddr s.itramAddr s.tick i = some e) (v : Word) (hm : Memory.wf s.itram = true) :
    itramRead (busWrite (0x200 + i) v s).itram e = if 0 ≤ e ∧ e < (Config.itramSize : Int) then v else 0#32 := by
  rw [busWrite_itramWindow v s h h' he, State.setItram_itram, itramRead_itramWrite_same e v hm]

/-- Settles O29: the two channels reach one word, which still holds what the write left there. -/
theorem delayLineAcrossTicks : Obligations.DelayLineAcrossTicks := by
  intro s t cw cr hw hr k v hinv htick hreg e he hkept
  have hread : indirectAddr t.itramAddr t.tick (cr : Int) = some e := (indirectAddr_of_delay hw hr htick hreg).trans he
  refine ⟨hread, ?_⟩
  calc busValue (0x200 + (cr : Int)) t
      = itramRead t.itram e := busValue_itramWindow t (by omega) (by omega) hread
    _ = itramRead (busWrite (0x200 + (cw : Int)) v s).itram e := hkept
    _ = if 0 ≤ e ∧ e < (Config.itramSize : Int) then v else 0#32 :=
      itramRead_busWrite_itramWindow (by omega) (by omega) he v hinv.memoryCanonical

/-- Settles O18: after the write the counter is v, and the windows and the end of the tick read nothing else of it. -/
theorem tickWriteGovernsLaterAccesses : Obligations.TickWriteGovernsLaterAccesses := by
  intro s v
  rw [busWrite_tick]
  refine ⟨State.setTick_tick .., fun c h => ⟨?_, ?_⟩, ?_⟩
  · exact indirectAddr_natCast s.itramAddr v h
  · exact indirectAddr_natCast s.xtramAddr v h
  · rw [endTick_eq, State.setTick_tick]

/-! ### The noise registers (70_reset_and_hazards R258) -/

theorem busTouch_keeps_noise (a : Int) (s : State) :
    (busTouch a s).noise0 = s.noise0 ∧ (busTouch a s).noise1 = s.noise1 := by
  obtain ⟨l, h⟩ := busTouch_events a s
  rw [h]
  exact ⟨rfl, rfl⟩

/-- The system leaf drops writes at the noise registers' addresses, and no other region holds them (20_memory R61). -/
theorem busWrite_keeps_noise (a : Int) (v : Word) (s : State) :
    (busWrite a v s).noise0 = s.noise0 ∧ (busWrite a v s).noise1 = s.noise1 := by
  obtain h | ⟨p, i, h⟩ | ⟨-, h⟩ | ⟨i, -, h⟩ | ⟨i, -, h⟩ | ⟨i, -, h⟩ | ⟨i, e, -, -, h⟩ := busWrite_cases a v s <;>
    rw [h] <;> exact ⟨rfl, rfl⟩

theorem exec_keeps_noise {i : Instr} (h : exec i s = .next t) : t.noise0 = s.noise0 ∧ t.noise1 = s.noise1 := by
  obtain ⟨frame, -⟩ := instructionFrame i s t h
  exact ⟨frame.noise0, frame.noise1⟩

/-- The one call of the host that draws noise is `tick`. -/
theorem hostEffect_noise (c : HostCall) (s : State) :
    ((hostEffect c s).noise0 = s.noise0 ∧ (hostEffect c s).noise1 = s.noise1) ∨ c = .tick := by
  cases c with
  | peek a => exact .inl (busTouch_keeps_noise a s)
  | poke a v => exact .inl (busWrite_keeps_noise a v s)
  | accRead => exact .inl ⟨rfl, rfl⟩
  | accWrite v => exact .inl ⟨rfl, rfl⟩
  | loadProgram p => exact .inl ⟨rfl, rfl⟩
  | tick => exact .inr rfl

/-- A step keeps both noise registers, or it starts a tick. -/
theorem step_keeps_noise_or_startTick (h : step s = .next t) :
    (t.noise0 = s.noise0 ∧ t.noise1 = s.noise1) ∨
      (s.phase = .idle ∧ ∃ rest, s.host = .tick :: rest ∧ t = startTick (s.setHost rest)) := by
  obtain ⟨ip, w, u, -, -, he, rfl⟩ | ⟨ip, -, -, rfl⟩ | ⟨-, -, rfl⟩ | ⟨c, rest, hp, hh, rfl⟩ := step_cases h
  · exact .inl (exec_keeps_noise (t := u) he)
  · exact .inl ⟨rfl, rfl⟩
  · exact .inl ⟨rfl, rfl⟩
  · obtain hkept | rfl := hostEffect_noise c (s.setHost rest)
    · exact .inl hkept
    · exact .inr ⟨hp, rest, hh, rfl⟩

theorem busValue_noise0 (s : State) : busValue 0x58 s = s.noise0 :=
  busValue_sys (i := sysNoise0) s (by decide) (by decide)

theorem busValue_noise1 (s : State) : busValue 0x59 s = s.noise1 :=
  busValue_sys (i := sysNoise1) s (by decide) (by decide)

/-- Settles O17: a step that changes a noise register starts a tick, which gives each register its draw. -/
theorem noiseChangesOnlyAtTheStartOfATick : Obligations.NoiseChangesOnlyAtTheStartOfATick := by
  refine ⟨fun s t hstep hchanged => ?_, fun s => ⟨busValue_noise0 s, busValue_noise1 s⟩⟩
  obtain ⟨h0, h1⟩ | ⟨hp, rest, hh, rfl⟩ := step_keeps_noise_or_startTick hstep
  · exact absurd hchanged (not_or.mpr ⟨not_not.mpr h0, not_not.mpr h1⟩)
  · exact ⟨hp, ⟨rest, hh⟩, rfl, rfl⟩

/-! ### The state after reset (70_reset_and_hazards R250) -/

/-- A store with no entry reads 0 everywhere, inside its size and out. -/
theorem itramRead_nil (e : Int) : itramRead [] e = 0#32 := by
  unfold itramRead
  split <;> rfl

theorem busValue_constant {k : Nat} (h : k < 22) (s : State) :
    busValue (0x40 + (k : Int)) s = constantTable.getD k 0#32 := by
  rw [busValue_sys s (by omega) (by omega), sysRead_constant (by omega) (by omega), Int.toNat_natCast]

theorem busValue_ccr (s : State) : busValue 0x57 s = 0#32 := busValue_sys (i := sysCcr) s (by decide) (by decide)

theorem busValue_irq (s : State) : busValue 0x5A s = 0#32 := busValue_sys (i := sysIrq) s (by decide) (by decide)

/-- Settles O10: the empty store is canonical and inside any size, and no tick runs. -/
theorem resetHasTheInvariant : Obligations.ResetHasTheInvariant where
  memoryCanonical := rfl
  memoryInStore := rfl
  indexInProgram := nofun

/-- Settles O11: the register arrays are replicated zeros, the store is empty, the bus reads by the system leaf's laws,
and every other value is the reset state's field. -/
theorem resetStateIsTheSpecs : Obligations.ResetStateIsTheSpecs :=
  ⟨fun _ h => Vector.getElem_replicate h, fun _ h => ⟨Vector.getElem_replicate h, Vector.getElem_replicate h⟩,
    itramRead_nil, rfl, rfl, rfl, rfl, rfl, rfl, busValue_ccr _, busValue_irq _, fun _ h => busValue_constant h _⟩

/-! ### The load of a program (70_reset_and_hazards R252) -/

/-- Settles O15: the step is the call's effect with the call gone from the queue. -/
theorem loadProgramReplacesOnlyTheProgram : Obligations.LoadProgramReplacesOnlyTheProgram := fun _ _ _ hp hcall =>
  ⟨_, step_of_hostCall hp hcall, rfl, rfl, rfl, rfl, rfl, rfl, rfl, rfl, rfl, rfl, rfl, rfl⟩

end Sys2Proof.Machine
end
